-- ==== Sys2Proof/Word.lean ====
section
/-!
DEFINITION. The word types of the chip8-js CORE (spec/00_scope.md R6, R7): every quantity the spec treats as
bits is a bit vector of its stated width, bit 0 least significant, always unsigned.
-/

namespace Sys2Proof

/-- A memory cell, a general register, a timer (R6: 8 bits). -/
abbrev Byte := BitVec 8

/-- An instruction word, the address register, the program counter, a stack entry (R6: 16 bits). -/
abbrev Word := BitVec 16

/-- A register index, the X and Y fields (R82: 4 bits). -/
abbrev RegIdx := BitVec 4

/-- A nibble that is no register index: the sprite height N, a sub-selector, an unexamined nibble (R82). -/
abbrev Nibble := BitVec 4

/-- The address operand NNN (R82: 12 bits). -/
abbrev Addr12 := BitVec 12

end Sys2Proof
end

