-- ==== Sys2Proof/Syntax.lean ====
section
/-!
DEFINITION. The instructions of the chip8-js CORE, one constructor per row of spec/opcode_table.json, in the order of
spec/30_encoding.md R86. Fields are the bit fields of R82. Bits that the decoder does not examine (the low nibble `u` of
groups 5 and 9, R88; the Y field of the two shifts, R116 and R118) are kept as fields, so that no bit of a word is lost;
no meaning reads them (log entry 9).
-/

namespace Sys2Proof

inductive Instr where
  /-- `8XY0` LD Vx, Vy (R110). -/
  | ldReg (x y : RegIdx)
  /-- `8XY1` OR Vx, Vy (R111). -/
  | orReg (x y : RegIdx)
  /-- `8XY2` AND Vx, Vy (R112). -/
  | andReg (x y : RegIdx)
  /-- `8XY3` XOR Vx, Vy (R113). -/
  | xorReg (x y : RegIdx)
  /-- `8XY4` ADD Vx, Vy (R114). -/
  | addReg (x y : RegIdx)
  /-- `8XY5` SUB Vx, Vy (R115). -/
  | subReg (x y : RegIdx)
  /-- `8XY6` SHR Vx (R116); `y` is not used. -/
  | shr (x y : RegIdx)
  /-- `8XY7` SUBN Vx, Vy (R117). -/
  | subn (x y : RegIdx)
  /-- `8XYE` SHL Vx (R118); `y` is not used. -/
  | shl (x y : RegIdx)
  /-- `3XNN` SE Vx, byte (R130). -/
  | seImm (x : RegIdx) (nn : Byte)
  /-- `4XNN` SNE Vx, byte (R131). -/
  | sneImm (x : RegIdx) (nn : Byte)
  /-- `5XYu` SE Vx, Vy (R132); `u` is not examined. -/
  | seReg (x y : RegIdx) (u : Nibble)
  /-- `9XYu` SNE Vx, Vy (R133); `u` is not examined. -/
  | sneReg (x y : RegIdx) (u : Nibble)
  /-- `1NNN` JP addr (R141). -/
  | jp (nnn : Addr12)
  /-- `2NNN` CALL addr (R142). -/
  | call (nnn : Addr12)
  /-- `00EE` RET (R143). -/
  | ret
  /-- `BNNN` JP V0, addr (R144). -/
  | jpV0 (nnn : Addr12)
  /-- `6XNN` LD Vx, byte (R150). -/
  | ldImm (x : RegIdx) (nn : Byte)
  /-- `7XNN` ADD Vx, byte (R151). -/
  | addImm (x : RegIdx) (nn : Byte)
  /-- `ANNN` LD I, addr (R152). -/
  | ldI (nnn : Addr12)
  /-- `FX1E` ADD I, Vx (R153). -/
  | addI (x : RegIdx)
  /-- `CXNN` RND Vx, byte (R161). -/
  | rnd (x : RegIdx) (nn : Byte)
  /-- `DXYN` DRW Vx, Vy, nibble (R167). -/
  | drw (x y : RegIdx) (n : Nibble)
  /-- `00E0` CLS (R168). -/
  | cls
  /-- `EX9E` SKP Vx (R181). -/
  | skp (x : RegIdx)
  /-- `EXA1` SKNP Vx (R182). -/
  | sknp (x : RegIdx)
  /-- `FX07` LD Vx, DT (R185). -/
  | ldVxDT (x : RegIdx)
  /-- `FX15` LD DT, Vx (R186). -/
  | ldDT (x : RegIdx)
  /-- `FX18` LD ST, Vx (R187). -/
  | ldST (x : RegIdx)
  /-- `FX29` LD F, Vx (R189). -/
  | ldF (x : RegIdx)
  /-- `FX33` LD B, Vx (R190). -/
  | ldB (x : RegIdx)
  /-- `FX55` LD [I], Vx (R191). -/
  | storeRegs (x : RegIdx)
  /-- `FX65` LD Vx, [I] (R192). -/
  | loadRegs (x : RegIdx)
  /-- `FX0A` LD Vx, K (R193). -/
  | ldK (x : RegIdx)
  deriving DecidableEq, Repr

end Sys2Proof
end

