-- ==== Sys2Proof/WellFormed.lean ====
section
/-!
DEFINITION. Which words and which instructions are well-formed. The opcode map is spec/30_encoding.md R86 (the mask and
match columns of spec/opcode_table.json), a word is legal when some row selects it, and every other word is illegal
(R90). It is written independently of Decode.lean's two-level dispatch (R84).
-/

namespace Sys2Proof

/-- One row of the opcode map: the mnemonic of spec/opcode_table.json, the mask and the match value (R86). -/
structure OpcodeRow where
  mnemonic : String
  mask : Word
  pattern : Word
  deriving DecidableEq, Repr

/-- "A word `w` selects a row when `w AND mask = match`" (R86). -/
def OpcodeRow.selects (r : OpcodeRow) (w : Word) : Bool :=
  w &&& r.mask == r.pattern

/-- The 34 rows of R86, in its order. -/
def opcodeMap : List OpcodeRow :=
  [⟨"LD_Vx__Vy", 0xF00F#16, 0x8000#16⟩,
   ⟨"OR_Vx__Vy", 0xF00F#16, 0x8001#16⟩,
   ⟨"AND_Vx__Vy", 0xF00F#16, 0x8002#16⟩,
   ⟨"XOR_Vx__Vy", 0xF00F#16, 0x8003#16⟩,
   ⟨"ADD_Vx__Vy", 0xF00F#16, 0x8004#16⟩,
   ⟨"SUB_Vx__Vy", 0xF00F#16, 0x8005#16⟩,
   ⟨"SHR_Vx", 0xF00F#16, 0x8006#16⟩,
   ⟨"SUBN_Vx__Vy", 0xF00F#16, 0x8007#16⟩,
   ⟨"SHL_Vx", 0xF00F#16, 0x800E#16⟩] ++
  [⟨"SE_Vx__byte", 0xF000#16, 0x3000#16⟩,
   ⟨"SNE_Vx__byte", 0xF000#16, 0x4000#16⟩,
   ⟨"SE_Vx__Vy", 0xF000#16, 0x5000#16⟩,
   ⟨"SNE_Vx__Vy", 0xF000#16, 0x9000#16⟩] ++
  [⟨"JP_addr", 0xF000#16, 0x1000#16⟩,
   ⟨"CALL_addr", 0xF000#16, 0x2000#16⟩,
   ⟨"RET", 0xFFFF#16, 0x00EE#16⟩,
   ⟨"JP_V0__addr", 0xF000#16, 0xB000#16⟩] ++
  [⟨"LD_Vx__byte", 0xF000#16, 0x6000#16⟩,
   ⟨"ADD_Vx__byte", 0xF000#16, 0x7000#16⟩,
   ⟨"LD_I__addr", 0xF000#16, 0xA000#16⟩,
   ⟨"ADD_I__Vx", 0xF0FF#16, 0xF01E#16⟩] ++
  [⟨"RND_Vx__byte", 0xF000#16, 0xC000#16⟩,
   ⟨"DRW_Vx__Vy__nibble", 0xF000#16, 0xD000#16⟩,
   ⟨"CLS", 0xFFFF#16, 0x00E0#16⟩] ++
  [⟨"SKP_Vx", 0xF0FF#16, 0xE09E#16⟩,
   ⟨"SKNP_Vx", 0xF0FF#16, 0xE0A1#16⟩] ++
  [⟨"LD_Vx__DT", 0xF0FF#16, 0xF007#16⟩,
   ⟨"LD_DT__Vx", 0xF0FF#16, 0xF015#16⟩,
   ⟨"LD_ST__Vx", 0xF0FF#16, 0xF018#16⟩,
   ⟨"LD_F__Vx", 0xF0FF#16, 0xF029#16⟩,
   ⟨"LD_B__Vx", 0xF0FF#16, 0xF033#16⟩,
   ⟨"LD__I___Vx", 0xF0FF#16, 0xF055#16⟩,
   ⟨"LD_Vx___I", 0xF0FF#16, 0xF065#16⟩,
   ⟨"LD_Vx__K", 0xF0FF#16, 0xF00A#16⟩]

/-- The check on a word: some row of the opcode map selects it; every word that it refuses is illegal (R90). -/
def legalWord (w : Word) : Bool :=
  opcodeMap.any fun r => r.selects w

/-- The check on an instruction. Each constructor's fields have exactly the widths of R82, and "field values are never
illegal by themselves" (R91: every X and Y, every NN, every N, every NNN), so there is no value for it to refuse: the
types carry the whole of it. -/
def Instr.wellFormed (i : Instr) : Bool :=
  match i with
  | .ldReg _ _ | .orReg _ _ | .andReg _ _ | .xorReg _ _ | .addReg _ _ | .subReg _ _ | .shr _ _ | .subn _ _ | .shl _ _
  | .seImm _ _ | .sneImm _ _ | .seReg _ _ _ | .sneReg _ _ _
  | .jp _ | .call _ | .ret | .jpV0 _
  | .ldImm _ _ | .addImm _ _ | .ldI _ | .addI _
  | .rnd _ _ | .drw _ _ _ | .cls | .skp _ | .sknp _
  | .ldVxDT _ | .ldDT _ | .ldST _ | .ldF _ | .ldB _ | .storeRegs _ | .loadRegs _ | .ldK _ => true

end Sys2Proof
end

