-- ==== Sys2Proof/Decode.lean ====
section
/-!
DEFINITION. The decoder, total on any bytes and rejecting by name, and after it the encoder, both from
spec/30_encoding.md: fields R82, two-level dispatch R84, the opcode map R86, group 0 by whole word R87, groups 5 and 9
without a sub-selector R88, illegal words R90. The opcode numbers are the spec's from general knowledge (R80, log
entry 7).
-/

namespace Sys2Proof

/-- Why the decoder gives no instruction. -/
inductive DecodeReject where
  /-- Fewer than two bytes: no whole instruction word (R81). Never met by the machine, which fetches two bytes. -/
  | truncated
  /-- A word that no row of the opcode map selects (R90); the machine raises `DecodeError` with it. -/
  | illegalWord (w : Word)
  deriving DecidableEq, Repr

/-- Bits 15:12, the group selector (R82). -/
def fieldG (w : Word) : Nibble := w.extractLsb' 12 4

/-- Bits 11:8, register index X (R82). -/
def fieldX (w : Word) : RegIdx := w.extractLsb' 8 4

/-- Bits 7:4, register index Y (R82). -/
def fieldY (w : Word) : RegIdx := w.extractLsb' 4 4

/-- Bits 3:0, the immediate nibble, the sub-selector of group 8 (R82). -/
def fieldN (w : Word) : Nibble := w.extractLsb' 0 4

/-- Bits 7:0, the immediate byte, the sub-selector of groups E and F (R82). -/
def fieldNN (w : Word) : Byte := w.extractLsb' 0 8

/-- Bits 11:0, the address operand (R82). -/
def fieldNNN (w : Word) : Addr12 := w.extractLsb' 0 12

/-- Group 0: only the two whole words 0x00E0 and 0x00EE are instructions (R87). -/
def decodeGroup0 (w : Word) : Option Instr :=
  if w = 0x00E0#16 then some .cls
  else if w = 0x00EE#16 then some .ret
  else none

/-- Group 8, dispatched on the low nibble (R84, R86). -/
def decodeGroup8 (w : Word) : Option Instr :=
  let x := fieldX w
  let y := fieldY w
  match (fieldN w).toNat with
  | 0x0 => some (.ldReg x y)
  | 0x1 => some (.orReg x y)
  | 0x2 => some (.andReg x y)
  | 0x3 => some (.xorReg x y)
  | 0x4 => some (.addReg x y)
  | 0x5 => some (.subReg x y)
  | 0x6 => some (.shr x y)
  | 0x7 => some (.subn x y)
  | 0xE => some (.shl x y)
  | _ => none

/-- Group E, dispatched on the low byte (R84, R86). -/
def decodeGroupE (w : Word) : Option Instr :=
  if fieldNN w = 0x9E#8 then some (.skp (fieldX w))
  else if fieldNN w = 0xA1#8 then some (.sknp (fieldX w))
  else none

/-- Group F, dispatched on the low byte (R84, R86). -/
def decodeGroupF (w : Word) : Option Instr :=
  let x := fieldX w
  let nn := fieldNN w
  if nn = 0x07#8 then some (.ldVxDT x)
  else if nn = 0x0A#8 then some (.ldK x)
  else if nn = 0x15#8 then some (.ldDT x)
  else if nn = 0x18#8 then some (.ldST x)
  else if nn = 0x1E#8 then some (.addI x)
  else if nn = 0x29#8 then some (.ldF x)
  else if nn = 0x33#8 then some (.ldB x)
  else if nn = 0x55#8 then some (.storeRegs x)
  else if nn = 0x65#8 then some (.loadRegs x)
  else none

/-- Dispatch first on the group selector, then on the secondary discriminator (R84). -/
def decodeGroup (w : Word) : Option Instr :=
  match (fieldG w).toNat with
  | 0x0 => decodeGroup0 w
  | 0x1 => some (.jp (fieldNNN w))
  | 0x2 => some (.call (fieldNNN w))
  | 0x3 => some (.seImm (fieldX w) (fieldNN w))
  | 0x4 => some (.sneImm (fieldX w) (fieldNN w))
  | 0x5 => some (.seReg (fieldX w) (fieldY w) (fieldN w))
  | 0x6 => some (.ldImm (fieldX w) (fieldNN w))
  | 0x7 => some (.addImm (fieldX w) (fieldNN w))
  | 0x8 => decodeGroup8 w
  | 0x9 => some (.sneReg (fieldX w) (fieldY w) (fieldN w))
  | 0xA => some (.ldI (fieldNNN w))
  | 0xB => some (.jpV0 (fieldNNN w))
  | 0xC => some (.rnd (fieldX w) (fieldNN w))
  | 0xD => some (.drw (fieldX w) (fieldY w) (fieldN w))
  | 0xE => decodeGroupE w
  | 0xF => decodeGroupF w
  | _ => none

/-- The decoder on one instruction word (R202); a word with no row is rejected with its name (R90). -/
def decodeWord (w : Word) : Except DecodeReject Instr :=
  match decodeGroup w with
  | some i => .ok i
  | none => .error (.illegalWord w)

/-- Two bytes to the instruction word, high byte first (R53). -/
def wordOfBytes (hi lo : Byte) : Word := hi ++ lo

/-- The decoder on a list of bytes: the instruction with the rest of the list. Every instruction is two bytes (R81). -/
def decode (bytes : List Byte) : Except DecodeReject (Instr × List Byte) :=
  match bytes with
  | hi :: lo :: rest =>
    match decodeWord (wordOfBytes hi lo) with
    | .ok i => .ok (i, rest)
    | .error e => .error e
  | _ => .error .truncated

/-- A word as it lies in memory: high byte at the lower address (R81). -/
def bytesOfWord (w : Word) : List Byte :=
  [w.extractLsb' 8 8, w.extractLsb' 0 8]

/-- The word of an instruction, by the patterns of R86 and the field positions of R82. -/
def encode (i : Instr) : Word :=
  match i with
  | .ldReg x y => 0x8#4 ++ x ++ y ++ 0x0#4
  | .orReg x y => 0x8#4 ++ x ++ y ++ 0x1#4
  | .andReg x y => 0x8#4 ++ x ++ y ++ 0x2#4
  | .xorReg x y => 0x8#4 ++ x ++ y ++ 0x3#4
  | .addReg x y => 0x8#4 ++ x ++ y ++ 0x4#4
  | .subReg x y => 0x8#4 ++ x ++ y ++ 0x5#4
  | .shr x y => 0x8#4 ++ x ++ y ++ 0x6#4
  | .subn x y => 0x8#4 ++ x ++ y ++ 0x7#4
  | .shl x y => 0x8#4 ++ x ++ y ++ 0xE#4
  | .seImm x nn => 0x3#4 ++ x ++ nn
  | .sneImm x nn => 0x4#4 ++ x ++ nn
  | .seReg x y u => 0x5#4 ++ x ++ y ++ u
  | .sneReg x y u => 0x9#4 ++ x ++ y ++ u
  | .jp nnn => 0x1#4 ++ nnn
  | .call nnn => 0x2#4 ++ nnn
  | .ret => 0x00EE#16
  | .jpV0 nnn => 0xB#4 ++ nnn
  | .ldImm x nn => 0x6#4 ++ x ++ nn
  | .addImm x nn => 0x7#4 ++ x ++ nn
  | .ldI nnn => 0xA#4 ++ nnn
  | .addI x => 0xF#4 ++ x ++ 0x1E#8
  | .rnd x nn => 0xC#4 ++ x ++ nn
  | .drw x y n => 0xD#4 ++ x ++ y ++ n
  | .cls => 0x00E0#16
  | .skp x => 0xE#4 ++ x ++ 0x9E#8
  | .sknp x => 0xE#4 ++ x ++ 0xA1#8
  | .ldVxDT x => 0xF#4 ++ x ++ 0x07#8
  | .ldDT x => 0xF#4 ++ x ++ 0x15#8
  | .ldST x => 0xF#4 ++ x ++ 0x18#8
  | .ldF x => 0xF#4 ++ x ++ 0x29#8
  | .ldB x => 0xF#4 ++ x ++ 0x33#8
  | .storeRegs x => 0xF#4 ++ x ++ 0x55#8
  | .loadRegs x => 0xF#4 ++ x ++ 0x65#8
  | .ldK x => 0xF#4 ++ x ++ 0x0A#8

/-- The word held in the low bits of `w` as the opcode table numbers them: an instruction of this hardware is one word
(R81), so the bits of the first word are all of it, and bits above `nbits` are 0. -/
def tableWord (nbits w : Nat) : Word :=
  BitVec.ofNat 16 (w % 2 ^ nbits)

/-- The instruction that the decoder reads from an instruction whose bits are `w`, numbered as spec/opcode_table.json
numbers them (bit 0 is the least significant bit of the word), laid out as the hardware stores it (R81). -/
def decodeTableWord (nbits w : Nat) : Option Instr :=
  match decode (bytesOfWord (tableWord nbits w)) with
  | .ok (i, _) => some i
  | .error _ => none

end Sys2Proof
end

