-- ==== Sys2Proof/Config.lean ====
section
/-!
DEFINITION. What is fixed for the machine: the implementation parameters of spec/00_scope.md R6, and the values
that the spec leaves open, each an opaque constant with no body, so that no proof can know it.
-/

namespace Sys2Proof.Config

/-- `MEM_SIZE` (R6): 4096 cells, addresses 0x000 to 0xFFF. -/
def memSize : Nat := 4096

/-- `STACK_DEPTH` (R6, R29): 16 entries. -/
def stackDepth : Nat := 16

/-- `PROG_BASE` (R6, R261): the load address and the reset value of the program counter. -/
def progBase : Nat := 0x200

/-- The longest image that fits from `progBase` to the end of memory (R216: 0xE00 bytes). -/
def maxImage : Nat := 3584

/-- `FB_W` (R6): 64 columns. -/
def fbWidth : Nat := 64

/-- `FB_H` (R6): 32 rows. -/
def fbHeight : Nat := 32

/-- `SPRITE_W` (R6): 8 pixels. -/
def spriteWidth : Nat := 8

/-- `GLYPH_BYTES` (R6, R41): 5 bytes a glyph. -/
def glyphBytes : Nat := 5

/-- FREE VALUE (log entry 2, safe). `MEM_INIT` of R42 and R260: the byte that a cell holds after reset when neither
the font nor the image covers it, arbitrary and fixed for the run. -/
opaque memInit : Nat → Byte

/-- FREE VALUE (log entry 4, safe). The level of the 16 keys `KEYS` (R217) that the n-th key query without a supplied
level sees. -/
opaque freeKeys : Nat → BitVec 16

/-- FREE VALUE (log entry 4, safe). The random byte `rnd` (R160, R219) of the n-th `CXNN` without a supplied byte. -/
opaque freeRnd : Nat → Byte

end Sys2Proof.Config
end

