-- ==== Sys2Proof/Machine/State.lean ====
section
/-!
DEFINITION. The machine's state as plain data: everything spec/10_state.md R20 names, the environment's inputs (R215),
the reasons a step can stop, and the state after reset (spec/70_reset_and_hazards.md R260).
-/

namespace Sys2Proof.Machine

/-- The reasons the machine stops with a fault: none. Every error of the spec (R231) is an exception whose entry the spec
describes (R236: ERR latched, HALTED set), so it is a next state; every instruction is total on every state (93, U3).
Log entry 1: safe. -/
inductive Fault where
  deriving DecidableEq, Repr

/-- The reasons a step is refused. -/
inductive Refusal where
  /-- Raised by an arm of `exec` for an instruction that has no meaning yet; no arm is left so. Safe. -/
  | notModelled (mnemonic : String)
  /-- Raised by the `boot` event for an image of more than 3584 bytes: "a longer image is not a case the block
  defines; a model refuses such a launch" (R216, D27). Safe. -/
  | oversizedImage
  deriving DecidableEq, Repr

/-- The error record `ERR` (R35): cause code, offending word, fetch address. -/
structure ErrRecord where
  code : BitVec 3
  word : Word
  addr : Word
  deriving DecidableEq, Repr

/-- No error: `(0, 0, 0)` (R20, R35). -/
def ErrRecord.clear : ErrRecord := ⟨0#3, 0#16, 0#16⟩

/-- The events that the environment issues (R215, R222). A key is 0 to 15 by its type (R218). `Load` comes only right
after `Reset`, so it is part of the `boot` event (R216, R262; log entry 6). -/
inductive Event where
  /-- `Step`, one cycle of the engine (R200). -/
  | step
  /-- `Tick`, the timer tick with the tone report (R211, R213). -/
  | tick
  /-- `KeyPress(k)` (R218). -/
  | keyPress (k : BitVec 4)
  /-- `Reset` (R260). -/
  | reset
  /-- `Reset`, then `Load(image)` (R262, R216). -/
  | boot (image : List Byte)
  deriving DecidableEq, Repr

/-- The MODEL's own fields, not the spec's: what the environment does next (log entries 4, 5 and 20). -/
structure Env where
  /-- The events that the environment issues next, oldest first; when it is empty the next event is `step`. -/
  schedule : List Event
  /-- The levels of `KEYS`, bit k set when key k is held (R217), that the coming executions of `EX9E` and `EXA1` see,
  oldest first; when it is empty each level is a free value. -/
  keysFeed : List (BitVec 16)
  /-- How many free levels of `KEYS` have been seen. -/
  keysDrawn : Nat
  /-- The bytes `rnd` that the coming executions of `CXNN` consume (R219), oldest first; when it is empty each byte is a
  free value. -/
  rndFeed : List Byte
  /-- How many free bytes have been consumed. -/
  rndDrawn : Nat
  deriving DecidableEq, Repr

/-- Memory as the list of its written cells, addresses rising; what a cell that is not listed holds is said once, in
`Memory.unlisted` (Ops.lean). -/
abbrev Memory := List Host.Cell

/-- The frame buffer `FB` (R43): 32 rows from the top, bit x of a row being the pixel of column x, 1 = lit. -/
abbrev FrameBuffer := Vector (BitVec 64) 32

/-- The whole state (R20). -/
@[ext]
structure State where
  /-- `V[0..15]`, the general registers; `V[15]` is VF (R21, R22). -/
  v : Vector Byte 16
  /-- `I`, the address register, all 16 bits held (R24). -/
  ireg : Word
  /-- `pc`, the program counter (R25). -/
  pc : Word
  /-- `DT`, the delay timer (R28). -/
  dt : Byte
  /-- `ST`, the sound timer (R28). -/
  st : Byte
  /-- `STACK`, the last element being the top; its length is `SP` (R29). -/
  stack : List Word
  /-- `PAUSED` (R32). -/
  paused : Bool
  /-- `KWAIT`, the register that the next key press writes (R33). -/
  kwait : Option RegIdx
  /-- `HALTED` (R34). -/
  halted : Bool
  /-- `ERR` (R35). -/
  err : ErrRecord
  /-- `TONE`, the output register (R36). -/
  tone : Bool
  /-- `MEM` (R40). -/
  mem : Memory
  /-- `FB` (R43). -/
  fb : FrameBuffer
  /-- The environment's inputs: the model's own field. -/
  env : Env
  deriving DecidableEq, Repr

/-- The machine right after `Reset` (R20, R260): execution starts at 0x200 (R261), all registers, timers and pixels are
zero, no memory cell is written. The fields of `env` are the model's own (log entry 20). -/
def State.reset : State where
  v := Vector.replicate 16 0#8
  ireg := 0#16
  pc := 0x0200#16
  dt := 0#8
  st := 0#8
  stack := []
  paused := false
  kwait := none
  halted := false
  err := ErrRecord.clear
  tone := false
  mem := []
  fb := Vector.replicate 32 0#64
  env := { schedule := [], keysFeed := [], keysDrawn := 0, rndFeed := [], rndDrawn := 0 }

end Sys2Proof.Machine
end

