-- ==== Sys2Proof/Machine/Ops.lean ====
section
/-!
DEFINITION. The named operations over registers, memory and the call stack (spec/00_scope.md R8, spec/20_memory.md,
spec/10_state.md R29 to R31), and taking a fatal error, the machine's one exception (spec/60_exceptions.md R236). There is
no return from an exception: no handler runs, and only the `Reset` event leaves the halted state (R238).
-/

namespace Sys2Proof.Machine

open Sys2Proof

/-- The flag register VF, register index 0xF (R22). -/
def vf : RegIdx := 0xF#4

/-- `V[x]`. -/
def State.reg (s : State) (x : RegIdx) : Byte :=
  s.v[x.toNat]'x.isLt

/-- `V[x] <- b` (R21). -/
def State.setReg (s : State) (x : RegIdx) (b : Byte) : State :=
  { s with v := s.v.set x.toNat b x.isLt }

/-- `pc <- t` (R8). -/
def State.setPc (s : State) (t : Word) : State := { s with pc := t }

/-- `I <- t`, all 16 bits (R24). -/
def State.setI (s : State) (t : Word) : State := { s with ireg := t }

/-- `DT <- b` (R28). -/
def State.setDT (s : State) (b : Byte) : State := { s with dt := b }

/-- `ST <- b` (R28). -/
def State.setST (s : State) (b : Byte) : State := { s with st := b }

/-- Replace the call stack. -/
def State.setStack (s : State) (l : List Word) : State := { s with stack := l }

/-- Replace memory. -/
def State.setMem (s : State) (m : Memory) : State := { s with mem := m }

/-- Replace the frame buffer. -/
def State.setFb (s : State) (f : FrameBuffer) : State := { s with fb := f }

/-- Enter the wait for a key press that register x will receive (R193). -/
def State.waitKey (s : State) (x : RegIdx) : State := { s with paused := true, kwait := some x }

/-- Leave the wait (R218). -/
def State.endWait (s : State) : State := { s with paused := false, kwait := none }

/-- Replace the environment's fields. -/
def State.setEnv (s : State) (e : Env) : State := { s with env := e }

/-- `skip`: `pc <- pc + 2` modulo 65536 when the condition holds (R8, R26, R134). -/
def State.skipIf (s : State) (c : Bool) : State :=
  s.setPc (if c then s.pc + 2#16 else s.pc)

/-! ### Memory -/

/-- What a cell that is not listed holds, as far as the spec gives it: the font byte below 0x050 (R41), nothing elsewhere
(R42: "arbitrary but fixed bytes"; log entry 2). -/
def Memory.unlisted (a : Nat) : Option Byte :=
  fontRom[a]?

/-- The listed content of a cell. -/
def Memory.lookup : Memory → Nat → Option Byte
  | [], _ => none
  | (k, b) :: m, a => if k = a then some b else Memory.lookup m a

/-- The content of a cell as far as the spec gives it. -/
def Memory.content (m : Memory) (a : Nat) : Option Byte :=
  match Memory.lookup m a with
  | some b => some b
  | none => Memory.unlisted a

/-- The byte at address `a` (R8 MemRead): a cell with no given content holds its byte of `MEM_INIT`, a free value
(R42, log entry 2). -/
def Memory.read (m : Memory) (a : Nat) : Byte :=
  (Memory.content m a).getD (Config.memInit a)

/-- List the cell at `a` with the byte `b`, keeping the addresses rising. -/
def Memory.insert : Memory → Nat → Byte → Memory
  | [], a, b => [(a, b)]
  | (k, c) :: m, a, b =>
    if a < k then (a, b) :: (k, c) :: m
    else if a = k then (a, b) :: m
    else (k, c) :: Memory.insert m a b

/-- Take every entry of the cell at `a` out of the list. -/
def Memory.erase : Memory → Nat → Memory
  | [], _ => []
  | (k, c) :: m, a => if k = a then Memory.erase m a else (k, c) :: Memory.erase m a

/-- Store `b` at `a` (R8 MemWrite); writing what the unlisted cell holds removes its entry. The block operations below
check the range first. -/
def Memory.write (m : Memory) (a : Nat) (b : Byte) : Memory :=
  if Memory.unlisted a = some b then Memory.erase m a else Memory.insert m a b

/-- The canonical form from address `lo` up: addresses strictly rising and below 4096, no entry equal to what the
unlisted cell holds. -/
def Memory.wfFrom : Nat → Memory → Bool
  | _, [] => true
  | lo, (a, b) :: m =>
    decide (lo ≤ a) && decide (a < Config.memSize) && decide (Memory.unlisted a ≠ some b) && Memory.wfFrom (a + 1) m

/-- The canonical form of memory. -/
def Memory.wf (m : Memory) : Bool :=
  Memory.wfFrom 0 m

/-- Whether `n` bytes from `base` up all name a cell; sums are untruncated, and no byte is always in range (R57). -/
def blockInRange (base n : Nat) : Bool :=
  n == 0 || decide (base + n ≤ Config.memSize)

/-- `n` bytes at ascending addresses (R54). -/
def Memory.readFrom (m : Memory) : Nat → Nat → List Byte
  | _, 0 => []
  | a, n + 1 => Memory.read m a :: Memory.readFrom m (a + 1) n

/-- Bytes stored at ascending addresses (R54). -/
def Memory.writeFrom (m : Memory) : Nat → List Byte → Memory
  | _, [] => m
  | a, b :: bs => Memory.writeFrom (Memory.write m a b) (a + 1) bs

/-- The byte at address `a`. -/
def State.readByte (s : State) (a : Nat) : Byte :=
  Memory.read s.mem a

/-- Read `n` bytes from `base` up, `none` when any lies above 0xFFF (R57: the whole range is checked first). -/
def State.readBlock (s : State) (base n : Nat) : Option (List Byte) :=
  if blockInRange base n then some (Memory.readFrom s.mem base n) else none

/-- Store bytes from `base` up, `none`, with nothing stored, when any would lie above 0xFFF (R57). -/
def State.writeBlock (s : State) (base : Nat) (bytes : List Byte) : Option State :=
  if blockInRange base bytes.length then some (s.setMem (Memory.writeFrom s.mem base bytes)) else none

/-- Every register of a list from index `k` up (R192). -/
def State.loadFrom (s : State) : Nat → List Byte → State
  | _, [] => s
  | k, b :: bs => State.loadFrom (s.setReg (BitVec.ofNat 4 k) b) (k + 1) bs

/-- `V[0]` to `V[x]`, in order (R191). -/
def State.regsUpTo (s : State) (x : RegIdx) : List Byte :=
  (List.range (x.toNat + 1)).map fun k => s.reg (BitVec.ofNat 4 k)

/-! ### The call stack -/

/-- `SP`, the fill count (R29). -/
def State.sp (s : State) : Nat := s.stack.length

/-- `Push(v)` (R30): `none` when the 16 entries are in use. -/
def State.push (s : State) (t : Word) : Option State :=
  if s.sp < Config.stackDepth then some (s.setStack (s.stack ++ [t])) else none

/-- `Pop()` (R31): the last element and the state without it, `none` when the stack is empty. -/
def State.pop (s : State) : Option (Word × State) :=
  match s.stack.getLast? with
  | some t => some (t, s.setStack s.stack.dropLast)
  | none => none

/-! ### Taking a fatal error -/

/-- The causes of R231. -/
inductive ErrorCause where
  | decodeError
  | addressError
  | stackOverflow
  | stackUnderflow
  deriving DecidableEq, Repr

/-- The codes of R231. -/
def ErrorCause.code : ErrorCause → BitVec 3
  | .decodeError => 1#3
  | .addressError => 2#3
  | .stackOverflow => 3#3
  | .stackUnderflow => 4#3

/-- `raise E(word, addr)` (R236): ERR is latched, HALTED is set, nothing else is written. -/
def State.raise (s : State) (e : ErrorCause) (word addr : Word) : State :=
  { s with err := ⟨e.code, word, addr⟩, halted := true }

/-- The address the current instruction was fetched from: `pc` holds it plus 2 (R26, R201; log entry 8). -/
def State.fetchAddr (s : State) : Word := s.pc - 2#16

/-- An instruction raises: the word is its own word and the address its fetch address (R231; log entry 8). -/
def State.raiseIn (s : State) (e : ErrorCause) (i : Instr) : Host.Outcome State Fault Refusal :=
  .next (s.raise e (encode i) s.fetchAddr)

end Sys2Proof.Machine
end

