-- ==== Sys2Proof/Machine/Flags.lean ====
section
/-!
DEFINITION. Every flag value that the spec computes: VF after the six instructions of spec/10_state.md R23, and the
one shared way in which a flag and a result are written (R9, R22).
-/

namespace Sys2Proof.Machine

open Sys2Proof

/-- A condition as the flag value 1 or 0. -/
def flagOf (c : Bool) : Byte := if c then 1#8 else 0#8

/-- ADD: 1 when the unsigned sum exceeds 255 (R114). -/
def addFlag (a b : Byte) : Byte := flagOf (decide (a.toNat + b.toNat > 255))

/-- SUB of `a - b`, and SUBN with the operands exchanged: 1 when `a > b` strictly, 0 when they are equal (R115, R117). -/
def subFlag (a b : Byte) : Byte := flagOf (decide (a.toNat > b.toNat))

/-- SHR: the old bit 0 (R116). -/
def shrFlag (a : Byte) : Byte := a &&& 0x01#8

/-- SHL: the old bit 7 in place, 0x00 or 0x80 (R118). -/
def shlFlag (a : Byte) : Byte := a &&& 0x80#8

/-- DRW: 1 when any toggled pixel was lit (R167). -/
def drawFlag (erased : Bool) : Byte := flagOf erased

/-- The flag is written first and the result second, so the result wins when x is 15 (R9, R22). -/
def State.setFlagged (s : State) (x : RegIdx) (flag result : Byte) : State :=
  (s.setReg vf flag).setReg x result

end Sys2Proof.Machine
end

