-- ==== Sys2Proof/Machine/Alu.lean ====
section
/-!
DEFINITION. The arithmetic and logic group (spec/40_alu.md R110 to R118). Operands are read before any write (R9).
-/

namespace Sys2Proof.Machine

open Sys2Proof

/-- `8XY0` LD Vx, Vy (R110). -/
def execLdReg (x y : RegIdx) (s : State) : Host.Outcome State Fault Refusal :=
  .next (s.setReg x (s.reg y))

/-- `8XY1` OR Vx, Vy (R111). -/
def execOrReg (x y : RegIdx) (s : State) : Host.Outcome State Fault Refusal :=
  .next (s.setReg x (s.reg x ||| s.reg y))

/-- `8XY2` AND Vx, Vy (R112). -/
def execAndReg (x y : RegIdx) (s : State) : Host.Outcome State Fault Refusal :=
  .next (s.setReg x (s.reg x &&& s.reg y))

/-- `8XY3` XOR Vx, Vy (R113). -/
def execXorReg (x y : RegIdx) (s : State) : Host.Outcome State Fault Refusal :=
  .next (s.setReg x (s.reg x ^^^ s.reg y))

/-- `8XY4` ADD Vx, Vy (R114). -/
def execAddReg (x y : RegIdx) (s : State) : Host.Outcome State Fault Refusal :=
  .next (s.setFlagged x (addFlag (s.reg x) (s.reg y)) (s.reg x + s.reg y))

/-- `8XY5` SUB Vx, Vy (R115). -/
def execSubReg (x y : RegIdx) (s : State) : Host.Outcome State Fault Refusal :=
  .next (s.setFlagged x (subFlag (s.reg x) (s.reg y)) (s.reg x - s.reg y))

/-- `8XY6` SHR Vx, in place; the Y field is not used (R116). -/
def execShr (x : RegIdx) (s : State) : Host.Outcome State Fault Refusal :=
  .next (s.setFlagged x (shrFlag (s.reg x)) (s.reg x >>> 1))

/-- `8XY7` SUBN Vx, Vy (R117). -/
def execSubn (x y : RegIdx) (s : State) : Host.Outcome State Fault Refusal :=
  .next (s.setFlagged x (subFlag (s.reg y) (s.reg x)) (s.reg y - s.reg x))

/-- `8XYE` SHL Vx, in place; the Y field is not used (R118). -/
def execShl (x : RegIdx) (s : State) : Host.Outcome State Fault Refusal :=
  .next (s.setFlagged x (shlFlag (s.reg x)) (s.reg x <<< 1))

end Sys2Proof.Machine
end

