-- ==== Sys2Proof/Machine/Operands.lean ====
section
/-!
DEFINITION. Every operand form of the spec beyond a plain register or immediate (spec/30_encoding.md R85): addresses
extended to 16 bits, the indexed jump, the address sum, the glyph address, the decimal digits, the key query, and
the two inputs of the block, `KEYS` and `rnd` (spec/50_engine_and_interfaces.md R217, R219).
-/

namespace Sys2Proof.Machine

open Sys2Proof

/-- `zext_16(NNN)` (R85). -/
def addrOperand (nnn : Addr12) : Word := nnn.setWidth 16

/-- `NNN + V[0]`, 16 bits (R144). -/
def State.indexedTarget (s : State) (nnn : Addr12) : Word :=
  addrOperand nnn + (s.reg 0#4).setWidth 16

/-- `I + V[x]` modulo 65536 (R153). -/
def State.addrPlus (s : State) (x : RegIdx) : Word :=
  s.ireg + (s.reg x).setWidth 16

/-- `5 × (a AND 0x0F)`, the glyph address (R189). -/
def glyphAddr (a : Byte) : Word :=
  BitVec.ofNat 16 (Config.glyphBytes * (a &&& 0x0F#8).toNat)

/-- The decimal hundreds, tens and ones of a byte (R190). -/
def decimalDigits (a : Byte) : List Byte :=
  [BitVec.ofNat 8 (a.toNat / 100), BitVec.ofNat 8 (a.toNat / 10 % 10), BitVec.ofNat 8 (a.toNat % 10)]

/-- `KeyHeld(k)` (R180): bit k of `KEYS` for k up to 15, not held above. -/
def keyHeld (keys : BitVec 16) (k : Byte) : Bool :=
  if k.toNat ≤ 15 then keys.getLsbD k.toNat else false

/-- The level of `KEYS` at this query (R180, R217) and the environment after it: the next supplied level, or a free value
when none is supplied (log entries 4 and 14). -/
def Env.nextKeys (e : Env) : BitVec 16 × Env :=
  match e.keysFeed with
  | k :: ks => (k, { e with keysFeed := ks })
  | [] => (Config.freeKeys e.keysDrawn, { e with keysDrawn := e.keysDrawn + 1 })

/-- `RndByte()` (R160, R219), one fresh byte, and the environment after it: the next supplied byte, or a free value when
none is supplied (log entry 4). -/
def Env.nextRnd (e : Env) : Byte × Env :=
  match e.rndFeed with
  | b :: bs => (b, { e with rndFeed := bs })
  | [] => (Config.freeRnd e.rndDrawn, { e with rndDrawn := e.rndDrawn + 1 })

/-- Query the level of `KEYS` (R217). -/
def State.sampleKeys (s : State) : BitVec 16 × State :=
  (s.env.nextKeys.1, s.setEnv s.env.nextKeys.2)

/-- Consume one random byte (R219). -/
def State.drawRnd (s : State) : Byte × State :=
  (s.env.nextRnd.1, s.setEnv s.env.nextRnd.2)

end Sys2Proof.Machine
end

