-- ==== Sys2Proof/Machine/Control.lean ====
section
/-!
DEFINITION. The control-flow group (spec/42_control_flow.md R140 to R144).
-/

namespace Sys2Proof.Machine

open Sys2Proof

/-- `1NNN` JP addr (R141). -/
def execJp (nnn : Addr12) (s : State) : Host.Outcome State Fault Refusal :=
  .next (s.setPc (addrOperand nnn))

/-- `2NNN` CALL addr (R142): the advanced `pc` is pushed; a 17th entry raises `StackOverflow`. -/
def execCall (nnn : Addr12) (s : State) : Host.Outcome State Fault Refusal :=
  match s.push s.pc with
  | some t => .next (t.setPc (addrOperand nnn))
  | none => s.raiseIn .stackOverflow (.call nnn)

/-- `00EE` RET (R143): an empty stack raises `StackUnderflow`. -/
def execRet (s : State) : Host.Outcome State Fault Refusal :=
  match s.pop with
  | some (t, s') => .next (s'.setPc t)
  | none => s.raiseIn .stackUnderflow .ret

/-- `BNNN` JP V0, addr (R144). -/
def execJpV0 (nnn : Addr12) (s : State) : Host.Outcome State Fault Refusal :=
  .next (s.setPc (s.indexedTarget nnn))

end Sys2Proof.Machine
end

