-- ==== Sys2Proof/Machine/Screen.lean ====
section
/-!
DEFINITION. The frame buffer's operations (spec/45_draw.md R165, R166) and the sprite blit over them (R167).
-/

namespace Sys2Proof.Machine

open Sys2Proof

/-- The pixel of column `x mod 64` and row `y mod 32` (R43, R165). -/
def FrameBuffer.pixel (f : FrameBuffer) (x y : Nat) : Bool :=
  (f[y % 32]'(Nat.mod_lt y (by decide))).getLsbD (x % 64)

/-- `FbToggle(x, y)` (R165): both coordinates wrap by a true modulo, the pixel is inverted, and the answer says whether it
went from lit to unlit. -/
def FrameBuffer.toggle (f : FrameBuffer) (x y : Nat) : FrameBuffer × Bool :=
  (f.set (y % 32) ((f[y % 32]'(Nat.mod_lt y (by decide))) ^^^ (1#64 <<< (x % 64))) (Nat.mod_lt y (by decide)),
    FrameBuffer.pixel f x y)

/-- `FbClear()` (R166). -/
def FrameBuffer.clear : FrameBuffer := Vector.replicate 32 0#64

/-- The columns `cs` of one sprite row: column c is bit `7 - c` of the row's byte, toggled when it is set (R167). The
answer says whether any toggle erased a pixel. -/
def drawCols (x0 y : Nat) (row : Byte) : FrameBuffer → List Nat → FrameBuffer × Bool
  | f, [] => (f, false)
  | f, c :: cs =>
    if row.getLsbD (7 - c) then
      let r := FrameBuffer.toggle f (x0 + c) y
      let q := drawCols x0 y row r.1 cs
      (q.1, r.2 || q.2)
    else drawCols x0 y row f cs

/-- One sprite row at `(x0, y)`: columns 0 to 7, left to right (R167). -/
def drawRow (f : FrameBuffer) (x0 y : Nat) (row : Byte) : FrameBuffer × Bool :=
  drawCols x0 y row f [0, 1, 2, 3, 4, 5, 6, 7]

/-- The sprite's rows from row `y` down (R167); the answer is the OR over all toggles: "a single collision anywhere in
the sprite sets the flag". -/
def drawSprite (f : FrameBuffer) (x0 y : Nat) : List Byte → FrameBuffer × Bool
  | [] => (f, false)
  | row :: rows =>
    let r := drawRow f x0 y row
    let q := drawSprite r.1 x0 (y + 1) rows
    (q.1, r.2 || q.2)

end Sys2Proof.Machine
end

