-- ==== Sys2Proof/Machine/Draw.lean ====
section
/-!
DEFINITION. The draw and display group (spec/45_draw.md R167 to R170).
-/

namespace Sys2Proof.Machine

open Sys2Proof

/-- `DXYN` DRW Vx, Vy, nibble (R167): coordinates and base are read first (R169), the address range is checked before VF
or any pixel changes (R57), `I` is kept (R24), VF is written in every case, with N = 0 too. The loop's writes of VF are
gathered in one answer and written once (log entry 10). -/
def execDrw (x y : RegIdx) (n : Nibble) (s : State) : Host.Outcome State Fault Refusal :=
  match s.readBlock s.ireg.toNat n.toNat with
  | some rows =>
    let r := drawSprite s.fb (s.reg x).toNat (s.reg y).toNat rows
    .next ((s.setFb r.1).setReg vf (drawFlag r.2))
  | none => s.raiseIn .addressError (.drw x y n)

/-- `00E0` CLS (R168). -/
def execCls (s : State) : Host.Outcome State Fault Refusal :=
  .next (s.setFb FrameBuffer.clear)

end Sys2Proof.Machine
end

