-- ==== Sys2Proof/Machine/Input.lean ====
section
/-!
DEFINITION. The input group (spec/46_input.md R180 to R182). Each of the two samples the level input `KEYS` when it
executes (R217), and no other instruction does (R215).
-/

namespace Sys2Proof.Machine

open Sys2Proof

/-- `EX9E` SKP Vx (R181). -/
def execSkp (x : RegIdx) (s : State) : Host.Outcome State Fault Refusal :=
  let k := s.sampleKeys
  .next (k.2.skipIf (keyHeld k.1 (s.reg x)))

/-- `EXA1` SKNP Vx (R182). -/
def execSknp (x : RegIdx) (s : State) : Host.Outcome State Fault Refusal :=
  let k := s.sampleKeys
  .next (k.2.skipIf (!keyHeld k.1 (s.reg x)))

end Sys2Proof.Machine
end

