-- ==== Sys2Proof/Machine/Load.lean ====
section
/-!
DEFINITION. The immediate and load group (spec/43_load_immediate.md R150 to R153) and the random instruction
(spec/44_random.md R160, R161). No flag is written by any of them.
-/

namespace Sys2Proof.Machine

open Sys2Proof

/-- `6XNN` LD Vx, byte (R150). -/
def execLdImm (x : RegIdx) (nn : Byte) (s : State) : Host.Outcome State Fault Refusal :=
  .next (s.setReg x nn)

/-- `7XNN` ADD Vx, byte: 8-bit truncating add, no flag (R151). -/
def execAddImm (x : RegIdx) (nn : Byte) (s : State) : Host.Outcome State Fault Refusal :=
  .next (s.setReg x (s.reg x + nn))

/-- `ANNN` LD I, addr (R152). -/
def execLdI (nnn : Addr12) (s : State) : Host.Outcome State Fault Refusal :=
  .next (s.setI (addrOperand nnn))

/-- `FX1E` ADD I, Vx: 16-bit truncating add, no flag (R153). -/
def execAddI (x : RegIdx) (s : State) : Host.Outcome State Fault Refusal :=
  .next (s.setI (s.addrPlus x))

/-- `CXNN` RND Vx, byte (R161): each execution consumes one fresh byte of the input `rnd` and no other instruction
consumes any (R219). -/
def execRnd (x : RegIdx) (nn : Byte) (s : State) : Host.Outcome State Fault Refusal :=
  let r := s.drawRnd
  .next (r.2.setReg x (r.1 &&& nn))

end Sys2Proof.Machine
end

