-- ==== Sys2Proof/Machine/Misc.lean ====
section
/-!
DEFINITION. The timer and miscellaneous group (spec/47_timer_misc.md R185 to R193). None of them writes VF but through
its register operand.
-/

namespace Sys2Proof.Machine

open Sys2Proof

/-- `FX07` LD Vx, DT (R185). -/
def execLdVxDT (x : RegIdx) (s : State) : Host.Outcome State Fault Refusal :=
  .next (s.setReg x s.dt)

/-- `FX15` LD DT, Vx (R186). -/
def execLdDT (x : RegIdx) (s : State) : Host.Outcome State Fault Refusal :=
  .next (s.setDT (s.reg x))

/-- `FX18` LD ST, Vx; the tone follows at the next tick (R187). -/
def execLdST (x : RegIdx) (s : State) : Host.Outcome State Fault Refusal :=
  .next (s.setST (s.reg x))

/-- `FX29` LD F, Vx (R189). -/
def execLdF (x : RegIdx) (s : State) : Host.Outcome State Fault Refusal :=
  .next (s.setI (glyphAddr (s.reg x)))

/-- `FX33` LD B, Vx (R190): `AddressError` before any byte is written; `I` is kept. -/
def execLdB (x : RegIdx) (s : State) : Host.Outcome State Fault Refusal :=
  match s.writeBlock s.ireg.toNat (decimalDigits (s.reg x)) with
  | some t => .next t
  | none => s.raiseIn .addressError (.ldB x)

/-- `FX55` LD [I], Vx (R191): `AddressError` before any byte is written; `I` is kept. -/
def execStoreRegs (x : RegIdx) (s : State) : Host.Outcome State Fault Refusal :=
  match s.writeBlock s.ireg.toNat (s.regsUpTo x) with
  | some t => .next t
  | none => s.raiseIn .addressError (.storeRegs x)

/-- `FX65` LD Vx, [I] (R192): `AddressError` before any register is written; `I` is kept. -/
def execLoadRegs (x : RegIdx) (s : State) : Host.Outcome State Fault Refusal :=
  match s.readBlock s.ireg.toNat (x.toNat + 1) with
  | some bytes => .next (s.loadFrom 0 bytes)
  | none => s.raiseIn .addressError (.loadRegs x)

/-- `FX0A` LD Vx, K (R193): the wait begins; the `KeyPress` event completes it (R218). -/
def execLdK (x : RegIdx) (s : State) : Host.Outcome State Fault Refusal :=
  .next (s.waitKey x)

end Sys2Proof.Machine
end

