-- ==== Sys2Proof/Machine/Skip.lean ====
section
/-!
DEFINITION. The comparison and skip group (spec/41_skip.md R130 to R134).
-/

namespace Sys2Proof.Machine

open Sys2Proof

/-- `3XNN` SE Vx, byte (R130). -/
def execSeImm (x : RegIdx) (nn : Byte) (s : State) : Host.Outcome State Fault Refusal :=
  .next (s.skipIf (decide (s.reg x = nn)))

/-- `4XNN` SNE Vx, byte (R131). -/
def execSneImm (x : RegIdx) (nn : Byte) (s : State) : Host.Outcome State Fault Refusal :=
  .next (s.skipIf (decide (s.reg x ≠ nn)))

/-- `5XYu` SE Vx, Vy (R132); the low nibble is not examined (R88). -/
def execSeReg (x y : RegIdx) (s : State) : Host.Outcome State Fault Refusal :=
  .next (s.skipIf (decide (s.reg x = s.reg y)))

/-- `9XYu` SNE Vx, Vy (R133); the low nibble is not examined (R88). -/
def execSneReg (x y : RegIdx) (s : State) : Host.Outcome State Fault Refusal :=
  .next (s.skipIf (decide (s.reg x ≠ s.reg y)))

end Sys2Proof.Machine
end

