-- ==== Sys2Proof/Machine/Engine.lean ====
section
/-!
DEFINITION. The execution engine and the environment's events (spec/50_engine_and_interfaces.md R200 to R219,
spec/70_reset_and_hazards.md R260 to R263).
-/

namespace Sys2Proof.Machine

open Sys2Proof

/-! ### Step -/

/-- The instruction word at `pc`, high byte first (R53), `none` when either byte lies above 0xFFF (R57). -/
def State.fetchWord (s : State) : Option Word :=
  match s.readBlock s.pc.toNat 2 with
  | some [hi, lo] => some (wordOfBytes hi lo)
  | _ => none

/-- `execute(w)` (R202), on a state whose `pc` is already advanced. -/
def executeWord (w : Word) (s : State) : Host.Outcome State Fault Refusal :=
  match decodeWord w with
  | .ok i => exec i s
  | .error _ => .next (s.raise .decodeError w s.fetchAddr)

/-- `Step` (R200, R201). -/
def engineStep (s : State) : Host.Outcome State Fault Refusal :=
  if s.halted then .next s
  else if s.paused then .next s
  else
    match s.fetchWord with
    | none => .next (s.raise .addressError 0x0000#16 s.pc)
    | some w => executeWord w (s.setPc (s.pc + 2#16))

/-! ### Tick, key press, reset, boot -/

/-- One decrement, floored at 0 (R28, R211). -/
def countDown (t : Byte) : Byte := if t = 0#8 then 0#8 else t - 1#8

/-- `Tick` (R211) with the tone report (R213); it does not depend on `PAUSED` (R212). -/
def State.tick (s : State) : State :=
  if s.halted then s
  else { s with dt := countDown s.dt, st := countDown s.st, tone := decide (countDown s.st ≠ 0#8) }

/-- `KeyPress(k)` (R218): it serves a pending wait, once, or has no effect. -/
def State.keyPress (s : State) (k : BitVec 4) : State :=
  if s.halted then s
  else
    match s.kwait with
    | some x => (s.setReg x (k.setWidth 8)).endWait
    | none => s

/-- `Reset` (R260) discards the whole state of the block, the loaded program included (R261); what the environment does
next is not the block's state and stays (log entry 16). -/
def State.onReset (s : State) : State := State.reset.setEnv s.env

/-- `Load(image)` (R216): the bytes copied to 0x200 up, nothing else; an image longer than 3584 bytes is refused. -/
def State.load (s : State) (image : List Byte) : Host.Outcome State Fault Refusal :=
  if image.length ≤ Config.maxImage then .next (s.setMem (Memory.writeFrom s.mem Config.progBase image))
  else .refused .oversizedImage

/-- Boot (R262): `Reset`, which includes the font, then `Load(image)`. -/
def State.boot (s : State) (image : List Byte) : Host.Outcome State Fault Refusal :=
  s.onReset.load image

/-- One event of the environment, one atomic transition (R10, R222). -/
def State.onEvent (s : State) (e : Event) : Host.Outcome State Fault Refusal :=
  match e with
  | .step => engineStep s
  | .tick => .next s.tick
  | .keyPress k => .next (s.keyPress k)
  | .reset => .next s.onReset
  | .boot image => s.boot image

/-- The machine's next transition: the event that the environment's schedule holds next, a `Step` when it holds none
(log entry 5). -/
def State.advance (s : State) : Host.Outcome State Fault Refusal :=
  match s.env.schedule with
  | [] => engineStep s
  | e :: es => (s.setEnv { s.env with schedule := es }).onEvent e

/-! ### The cycle batch -/

/-- What a batch leaves (R210): the state, whether `redraw` was pulsed (R214), and the error that ended it, if any. -/
structure BatchResult where
  state : State
  redraw : Bool
  error : Option ErrRecord
  deriving DecidableEq, Repr

/-- `n` Steps, ended by the first fatal error (R210). -/
def runSteps : Nat → State → Host.Outcome State Fault Refusal
  | 0, s => .next s
  | n + 1, s =>
    match engineStep s with
    | .next t => if t.halted then .next t else runSteps n t
    | .fault f => .fault f
    | .refused r => .refused r

/-- `RunCycles(n)` (R210): the Steps, then, unless an error ended them, one tick with its tone report and the redraw
strobe; a batch started while halted does nothing at all. DESIGN CHOICE for `RunCycles(0)` started while halted, unsafe:
the pseudocode of R210 would go on to the redraw and its text says that the batch does nothing; the model follows the text, and its answer carries the ERR of the halted state as for every other `n` (log entry 21). -/
def runCycles (n : Nat) (s : State) : Host.Outcome BatchResult Fault Refusal :=
  match runSteps n s with
  | .next t =>
    if t.halted then .next ⟨t, false, some t.err⟩
    else .next ⟨t.tick, true, none⟩
  | .fault f => .fault f
  | .refused r => .refused r

/-- The events of `RunCycles(n)` as the driver issues them (R210). -/
def batchEvents (n : Nat) : List Event :=
  List.replicate n .step ++ [.tick]

/-! ### Placing a word where the next step fetches it -/

/-- The machine ready to fetch the word `w` next: not halted, not waiting, no event scheduled before the step, the word
stored at `pc` (at 0x200 when `pc` is beyond the last address a fetch can use) (log entry 15). -/
def State.placeWord (s : State) (w : Word) : State :=
  let a : Word := if s.pc.toNat ≤ 0x0FFE then s.pc else BitVec.ofNat 16 Config.progBase
  { s with
    pc := a
    paused := false
    kwait := none
    halted := false
    err := if s.halted then ErrRecord.clear else s.err
    mem := Memory.writeFrom s.mem a.toNat (bytesOfWord w)
    env := { s.env with schedule := [] } }

end Sys2Proof.Machine
end

