-- ==== Sys2Proof/Machine/Step.lean ====
section
/-!
DEFINITION. The step of the machine, and the placing of an instruction where it fetches; both only call Engine.lean.
-/

namespace Sys2Proof.Machine

open Sys2Proof

/-- One transition of the machine: the environment's next scheduled event, a `Step` of the engine (R200) when none is
scheduled. -/
def step (s : State) : Host.Outcome State Fault Refusal := s.advance

/-- `s` with the instruction whose bits are `w`, numbered as spec/opcode_table.json numbers them, stored where the next
step fetches. -/
def State.withFetchWord (s : State) (nbits w : Nat) : State := s.placeWord (tableWord nbits w)

end Sys2Proof.Machine
end

