-- ==== Sys2Proof/Safety.lean ====
section
/-!
DEFINITION. The terms in which claims speak of a run: what a transition leaves unchanged, what an instruction writes, the
invariant of the machine, and the pixels a sprite touches.
-/

namespace Sys2Proof.Machine

open Sys2Proof

/-! ### What is left unchanged -/

/-- Every general register but the listed ones is unchanged. -/
def RegsKept (s t : State) (but : List RegIdx) : Prop :=
  ∀ r : RegIdx, r ∉ but → t.reg r = s.reg r

/-- Every byte of memory reads as before. -/
def MemKept (s t : State) : Prop :=
  ∀ a : Nat, t.readByte a = s.readByte a

/-- Every byte of memory outside the `n` bytes from `base` up reads as before. -/
def MemKeptBut (s t : State) (base n : Nat) : Prop :=
  ∀ a : Nat, a < base ∨ base + n ≤ a → t.readByte a = s.readByte a

/-- Both timers and the tone output are unchanged. -/
def TimersKept (s t : State) : Prop :=
  t.dt = s.dt ∧ t.st = s.st ∧ t.tone = s.tone

/-- The run state and the error record are unchanged. -/
def RunKept (s t : State) : Prop :=
  t.paused = s.paused ∧ t.kwait = s.kwait ∧ t.halted = s.halted ∧ t.err = s.err

/-- The run state, the error record and the environment's inputs are unchanged. -/
def ControlKept (s t : State) : Prop :=
  RunKept s t ∧ t.env = s.env

/-- Everything of the block but the general registers and `pc` is unchanged. -/
def BlockKept (s t : State) : Prop :=
  t.ireg = s.ireg ∧ TimersKept s t ∧ t.stack = s.stack ∧ t.fb = s.fb ∧ MemKept s t ∧ RunKept s t

/-- Everything but the general registers and `pc` is unchanged, the environment's inputs too. -/
def RestKept (s t : State) : Prop :=
  BlockKept s t ∧ t.env = s.env

/-- `t` is `s` after a fatal error with this record (R236, R237): everything but `pc`, `HALTED`, `ERR` is unchanged, the
environment's inputs too. -/
def Raised (s t : State) (e : ErrRecord) : Prop :=
  t.halted = true ∧ t.err = e ∧ RegsKept s t [] ∧ t.ireg = s.ireg ∧ TimersKept s t ∧ t.stack = s.stack ∧
    t.paused = s.paused ∧ t.kwait = s.kwait ∧ t.fb = s.fb ∧ MemKept s t ∧ t.env = s.env

/-! ### How an instruction completes -/

/-- The instruction completes with the value `b` in register `x` and nothing else changed. -/
def CompletesReg (i : Instr) (s : State) (x : RegIdx) (b : Byte) : Prop :=
  ∃ t, exec i s = .next t ∧ t.reg x = b ∧ RegsKept s t [x] ∧ t.pc = s.pc ∧ RestKept s t

/-- The instruction completes with the result `b` in register `x`, the flag `f` in VF (the result when `x` is VF itself),
and nothing else changed (R22). -/
def CompletesFlagged (i : Instr) (s : State) (x : RegIdx) (b f : Byte) : Prop :=
  ∃ t, exec i s = .next t ∧ t.reg x = b ∧ (x ≠ vf → t.reg vf = f) ∧ RegsKept s t [x, vf] ∧ t.pc = s.pc ∧ RestKept s t

/-- The instruction completes with `pc` at `p` and nothing else changed. -/
def CompletesPc (i : Instr) (s : State) (p : Word) : Prop :=
  ∃ t, exec i s = .next t ∧ t.pc = p ∧ RegsKept s t [] ∧ RestKept s t

/-- The instruction completes with `a` in the address register and nothing else changed. -/
def CompletesI (i : Instr) (s : State) (a : Word) : Prop :=
  ∃ t, exec i s = .next t ∧ t.ireg = a ∧ RegsKept s t [] ∧ t.pc = s.pc ∧ TimersKept s t ∧ t.stack = s.stack ∧
    t.fb = s.fb ∧ MemKept s t ∧ ControlKept s t

/-- The instruction with the word `w` raises a fatal error of this code: the record holds the word and the address it was
fetched from, two before `pc`; `pc` stays advanced and nothing else changes (R231, R236, R237). -/
def RaisesIn (i : Instr) (s : State) (code : BitVec 3) (w : Word) : Prop :=
  ∃ t, exec i s = .next t ∧ Raised s t ⟨code, w, s.pc - 2#16⟩ ∧ t.pc = s.pc

/-! ### What an instruction may write -/

/-- The general registers an instruction writes: its destination, and VF for the six instructions of R23. -/
def writtenRegs : Instr → List RegIdx
  | .ldReg x _ | .orReg x _ | .andReg x _ | .xorReg x _ => [x]
  | .addReg x _ | .subReg x _ | .shr x _ | .subn x _ | .shl x _ => [x, vf]
  | .ldImm x _ | .addImm x _ | .rnd x _ | .ldVxDT x => [x]
  | .drw _ _ _ => [vf]
  | .loadRegs x => (List.range (x.toNat + 1)).map fun k => BitVec.ofNat 4 k
  | .seImm _ _ | .sneImm _ _ | .seReg _ _ _ | .sneReg _ _ _ | .jp _ | .call _ | .ret | .jpV0 _ | .ldI _ | .addI _
  | .cls | .skp _ | .sknp _ | .ldDT _ | .ldST _ | .ldF _ | .ldB _ | .storeRegs _ | .ldK _ => []

/-- How many bytes from `I` up an instruction stores (R52): three for `FX33`, X + 1 for `FX55`, none otherwise. -/
def storedBytes : Instr → Nat
  | .ldB _ => 3
  | .storeRegs x => x.toNat + 1
  | .ldReg _ _ | .orReg _ _ | .andReg _ _ | .xorReg _ _ | .addReg _ _ | .subReg _ _ | .shr _ _ | .subn _ _ | .shl _ _
  | .seImm _ _ | .sneImm _ _ | .seReg _ _ _ | .sneReg _ _ _ | .jp _ | .call _ | .ret | .jpV0 _ | .ldImm _ _
  | .addImm _ _ | .ldI _ | .addI _ | .rnd _ _ | .drw _ _ _ | .cls | .skp _ | .sknp _ | .ldVxDT _ | .ldDT _ | .ldST _
  | .ldF _ | .loadRegs _ | .ldK _ => 0

/-- The byte at address `a` after the `n` bytes `f 0`, `f 1`, … were stored from `base` up in state `s` (R54). -/
def byteAfter (s : State) (base n : Nat) (f : Nat → Byte) (a : Nat) : Byte :=
  if base ≤ a ∧ a < base + n then f (a - base) else s.readByte a

/-! ### The invariant -/

/-- What holds after every transition: memory is in its canonical form; the stack holds at most 16 entries (R29);
`PAUSED` exactly when a wait is pending (R33); `HALTED` exactly when `ERR` holds an error (R34, R35); never both waiting
and halted (R194 g); `pc` is at most 0x10FE, the greatest indexed jump (R144), and every return address at most 0x1000
(R26, R57). -/
structure MachineInv (s : State) : Prop where
  memory : Memory.wf s.mem = true
  depth : s.stack.length ≤ Config.stackDepth
  waiting : s.paused = s.kwait.isSome
  error : s.halted = (s.err.code != 0#3)
  oneStop : ¬ (s.paused = true ∧ s.halted = true)
  counter : s.pc.toNat ≤ 0x10FE
  returns : ∀ a ∈ s.stack, a.toNat ≤ 0x1000

/-! ### The pixels of a sprite -/

/-- The pixel of column `px` and row `py` is touched by a `DXYN` in state `s`: some set bit of the sprite, in row r and
column c, lies on it after both coordinates wrap (R165, R167, R170). -/
def Touched (s : State) (x y : RegIdx) (n : Nibble) (px py : Nat) : Prop :=
  ∃ r c : Nat, r < n.toNat ∧ c < Config.spriteWidth ∧ (s.readByte (s.ireg.toNat + r)).getLsbD (7 - c) = true ∧
    ((s.reg x).toNat + c) % Config.fbWidth = px ∧ ((s.reg y).toNat + r) % Config.fbHeight = py

/-- Some touched pixel of a `DXYN` is lit in state `s` (R170 c). -/
def Collides (s : State) (x y : RegIdx) (n : Nibble) : Prop :=
  ∃ px py : Nat, Touched s x y n px py ∧ s.fb.pixel px py = true

end Sys2Proof.Machine
end

