-- ==== Sys2Proof/Certificates/Slice0/Obligations.lean ====
section
/-!
DEFINITION. The statements for the provers, each formalising rules of spec/. Per-instruction statements speak of `exec`,
which runs on a state whose `pc` already points past the instruction (spec/50_engine_and_interfaces.md R201).
-/

open Sys2Proof Sys2Proof.Machine

/-! ### Encoding (spec/30_encoding.md) -/

/-- Every instruction, with every value of every field, is decoded from its own word (R82, R86, R91). -/
def Obligations.DecodeOfEncode : Prop :=
  ∀ i : Instr, decodeWord (encode i) = .ok i

/-- A word that decodes is the word of the instruction it decodes to: no bit of it is dropped (R82, R86). -/
def Obligations.EncodeOfDecode : Prop :=
  ∀ (w : Word) (i : Instr), decodeWord w = .ok i → encode i = w

/-- The rejected words are exactly the four groups of illegal words of R90. -/
def Obligations.RejectedWordsAreTheIllegalOnes : Prop :=
  ∀ w : Word, decodeWord w = .error (.illegalWord w) ↔
    (fieldG w = 0x0#4 ∧ fieldNNN w ∉ [0x0E0#12, 0x0EE#12]) ∨
    (fieldG w = 0x8#4 ∧ fieldN w ∈ [0x8#4, 0x9#4, 0xA#4, 0xB#4, 0xC#4, 0xD#4, 0xF#4]) ∨
    (fieldG w = 0xE#4 ∧ fieldNN w ∉ [0x9E#8, 0xA1#8]) ∨
    (fieldG w = 0xF#4 ∧ fieldNN w ∉ [0x07#8, 0x0A#8, 0x15#8, 0x18#8, 0x1E#8, 0x29#8, 0x33#8, 0x55#8, 0x65#8])

/-- The two-level dispatch of R84 accepts exactly the words that a row of the opcode map selects (R86). -/
def Obligations.DispatchAgreesWithOpcodeMap : Prop :=
  ∀ w : Word, (∃ i, decodeWord w = .ok i) ↔ legalWord w = true

/-- "The masks are disjoint, so at most one row matches" (R86). -/
def Obligations.AtMostOneRowSelects : Prop :=
  ∀ w : Word, ∀ r₁ ∈ opcodeMap, ∀ r₂ ∈ opcodeMap, r₁.selects w = true → r₂.selects w = true → r₁ = r₂

/-- Words written out from the encodings of R86, one at least of each of the sixteen groups of R84, decode to the
instructions they stand for, 912F by the spec's own decision D5 (R88: the low nibble is not examined), and 8128 is
rejected (R90). -/
def Obligations.SampleWordsDecode : Prop :=
  decodeWord 0x8124#16 = .ok (.addReg 1#4 2#4) ∧ decodeWord 0x3A42#16 = .ok (.seImm 0xA#4 0x42#8) ∧
  decodeWord 0x2300#16 = .ok (.call 0x300#12) ∧ decodeWord 0x00EE#16 = .ok .ret ∧
  decodeWord 0x1234#16 = .ok (.jp 0x234#12) ∧ decodeWord 0x4B17#16 = .ok (.sneImm 0xB#4 0x17#8) ∧
  decodeWord 0x5670#16 = .ok (.seReg 6#4 7#4 0#4) ∧ decodeWord 0x6C99#16 = .ok (.ldImm 0xC#4 0x99#8) ∧
  decodeWord 0x7A10#16 = .ok (.addImm 0xA#4 0x10#8) ∧ decodeWord 0xA2B4#16 = .ok (.ldI 0x2B4#12) ∧
  decodeWord 0xB305#16 = .ok (.jpV0 0x305#12) ∧
  decodeWord 0xF31E#16 = .ok (.addI 3#4) ∧ decodeWord 0xC30F#16 = .ok (.rnd 3#4 0x0F#8) ∧
  decodeWord 0xD125#16 = .ok (.drw 1#4 2#4 5#4) ∧ decodeWord 0xE5A1#16 = .ok (.sknp 5#4) ∧
  decodeWord 0xF255#16 = .ok (.storeRegs 2#4) ∧ decodeWord 0xF30A#16 = .ok (.ldK 3#4) ∧
  decodeWord 0x912F#16 = .ok (.sneReg 1#4 2#4 0xF#4) ∧ decodeWord 0x8128#16 = .error (.illegalWord 0x8128#16)

/-! ### Arithmetic and logic (spec/40_alu.md) -/

/-- LD, OR, AND, XOR of two registers: the result, VF unchanged unless it is the destination (R110 to R113; that
the logic operations keep VF is the spec's own decision D8). -/
def Obligations.CopyAndLogicResults : Prop :=
  ∀ (s : State) (x y : RegIdx),
    CompletesReg (.ldReg x y) s x (s.reg y) ∧
    CompletesReg (.orReg x y) s x (s.reg x ||| s.reg y) ∧
    CompletesReg (.andReg x y) s x (s.reg x &&& s.reg y) ∧
    CompletesReg (.xorReg x y) s x (s.reg x ^^^ s.reg y)

/-- ADD: the sum modulo 256, VF = 1 iff the sum exceeds 255; with X = 15 the sum wins (R114). -/
def Obligations.AddResultAndCarry : Prop :=
  ∀ (s : State) (x y : RegIdx),
    CompletesFlagged (.addReg x y) s x (BitVec.ofNat 8 (((s.reg x).toNat + (s.reg y).toNat) % 256))
      (if (s.reg x).toNat + (s.reg y).toNat > 255 then 1#8 else 0#8)

/-- SUB: the difference modulo 256, VF = 1 iff the first operand is strictly greater (R115). -/
def Obligations.SubResultAndFlag : Prop :=
  ∀ (s : State) (x y : RegIdx),
    CompletesFlagged (.subReg x y) s x (BitVec.ofNat 8 (((s.reg x).toNat + 256 - (s.reg y).toNat) % 256))
      (if (s.reg x).toNat > (s.reg y).toNat then 1#8 else 0#8)

/-- SHR: the half of V[X], VF = its old bit 0, whatever Y (R116; Y ignored by the spec's own decision D7). -/
def Obligations.ShrResultAndFlag : Prop :=
  ∀ (s : State) (x y : RegIdx),
    CompletesFlagged (.shr x y) s x (BitVec.ofNat 8 ((s.reg x).toNat / 2)) (BitVec.ofNat 8 ((s.reg x).toNat % 2))

/-- SUBN: V[Y] - V[X] modulo 256, VF = 1 iff V[Y] is strictly greater (R117). -/
def Obligations.SubnResultAndFlag : Prop :=
  ∀ (s : State) (x y : RegIdx),
    CompletesFlagged (.subn x y) s x (BitVec.ofNat 8 (((s.reg y).toNat + 256 - (s.reg x).toNat) % 256))
      (if (s.reg y).toNat > (s.reg x).toNat then 1#8 else 0#8)

/-- SHL: twice V[X] modulo 256, VF = 0x80 when the old bit 7 was set, else 0x00, whatever Y (R118; Y
ignored by the spec's own decision D7). -/
def Obligations.ShlResultAndFlag : Prop :=
  ∀ (s : State) (x y : RegIdx),
    CompletesFlagged (.shl x y) s x (BitVec.ofNat 8 (2 * (s.reg x).toNat % 256))
      (if (s.reg x).toNat ≥ 128 then 0x80#8 else 0x00#8)

/-! ### Skips, jumps, calls (spec/41_skip.md, spec/42_control_flow.md, spec/46_input.md) -/

/-- SE and SNE with an immediate: `pc` moves two further when the condition holds, nothing else changes (R130, R131). -/
def Obligations.ImmediateSkips : Prop :=
  ∀ (s : State) (x : RegIdx) (nn : Byte),
    CompletesPc (.seImm x nn) s (if s.reg x = nn then s.pc + 2#16 else s.pc) ∧
    CompletesPc (.sneImm x nn) s (if s.reg x = nn then s.pc else s.pc + 2#16)

/-- SE and SNE of two registers, for every value of the unexamined low nibble (R132, R133). -/
def Obligations.RegisterSkips : Prop :=
  ∀ (s : State) (x y : RegIdx) (u : Nibble),
    CompletesPc (.seReg x y u) s (if s.reg x = s.reg y then s.pc + 2#16 else s.pc) ∧
    CompletesPc (.sneReg x y u) s (if s.reg x = s.reg y then s.pc else s.pc + 2#16)

/-- SKP and SKNP: a key above 15 is never held; otherwise bit V[X] of the level of `KEYS` that this execution samples
decides; the level comes from the model's own field `env`, of which only this level is used up (R181, R182; log entries 4
and 14). -/
def Obligations.KeySkips : Prop :=
  ∀ (s : State) (x : RegIdx),
    (∃ t, exec (.skp x) s = .next t ∧
      t.pc = (if (s.reg x).toNat ≤ 15 ∧ s.env.nextKeys.1.getLsbD (s.reg x).toNat = true then s.pc + 2#16 else s.pc) ∧
      RegsKept s t [] ∧ BlockKept s t ∧ t.env = s.env.nextKeys.2) ∧
    (∃ t, exec (.sknp x) s = .next t ∧
      t.pc = (if (s.reg x).toNat ≤ 15 ∧ s.env.nextKeys.1.getLsbD (s.reg x).toNat = true then s.pc else s.pc + 2#16) ∧
      RegsKept s t [] ∧ BlockKept s t ∧ t.env = s.env.nextKeys.2)

/-- JP: `pc` is the address operand, with no check of parity or range (R141). -/
def Obligations.JumpTarget : Prop :=
  ∀ (s : State) (nnn : Addr12), CompletesPc (.jp nnn) s (BitVec.ofNat 16 nnn.toNat)

/-- JP V0: `pc` is the untruncated sum of the address operand and V[0] (R144). -/
def Obligations.IndexedJumpTarget : Prop :=
  ∀ (s : State) (nnn : Addr12), CompletesPc (.jpV0 nnn) s (BitVec.ofNat 16 (nnn.toNat + (s.reg 0#4).toNat))

/-- CALL: below 16 entries the advanced `pc` is pushed on top and `pc` is the address operand; at 16 `StackOverflow`
is raised with the stack unchanged (R142). -/
def Obligations.CallPushesOrOverflows : Prop :=
  ∀ (s : State) (nnn : Addr12),
    (s.stack.length < 16 →
      ∃ t, exec (.call nnn) s = .next t ∧ t.stack = s.stack ++ [s.pc] ∧ t.pc = BitVec.ofNat 16 nnn.toNat ∧
        RegsKept s t [] ∧ t.ireg = s.ireg ∧ TimersKept s t ∧ t.fb = s.fb ∧ MemKept s t ∧ ControlKept s t) ∧
    (s.stack.length = 16 → RaisesIn (.call nnn) s 3#3 (0x2#4 ++ nnn))

/-- RET: the top entry goes to `pc` unchanged and leaves the stack; an empty stack raises `StackUnderflow` (R143). -/
def Obligations.ReturnPopsOrUnderflows : Prop :=
  ∀ s : State,
    (∀ (l : List Word) (a : Word), s.stack = l ++ [a] →
      ∃ t, exec .ret s = .next t ∧ t.stack = l ∧ t.pc = a ∧
        RegsKept s t [] ∧ t.ireg = s.ireg ∧ TimersKept s t ∧ t.fb = s.fb ∧ MemKept s t ∧ ControlKept s t) ∧
    (s.stack = [] → RaisesIn .ret s 4#3 0x00EE#16)

/-- A call, then a return from any state with the stack that the call left, gives back the pushed `pc` and the stack of
before (R142, R143, R145). -/
def Obligations.CallThenReturnRestores : Prop :=
  ∀ (s : State) (nnn : Addr12), s.stack.length < 16 →
    ∃ t, exec (.call nnn) s = .next t ∧
      ∀ u : State, u.stack = t.stack → ∃ r, exec .ret u = .next r ∧ r.pc = s.pc ∧ r.stack = s.stack

/-! ### Loads, random (spec/43_load_immediate.md, spec/44_random.md) -/

/-- LD and ADD with an immediate: no flag effect, the sum wraps modulo 256 (R150, R151). -/
def Obligations.ImmediateLoadAndAdd : Prop :=
  ∀ (s : State) (x : RegIdx) (nn : Byte),
    CompletesReg (.ldImm x nn) s x nn ∧
    CompletesReg (.addImm x nn) s x (BitVec.ofNat 8 (((s.reg x).toNat + nn.toNat) % 256))

/-- LD I and ADD I: the operand zero-extended, and the sum kept to 16 bits, no flag (R152, R153). -/
def Obligations.AddressRegisterLoadAndAdd : Prop :=
  ∀ (s : State) (x : RegIdx) (nnn : Addr12),
    CompletesI (.ldI nnn) s (BitVec.ofNat 16 nnn.toNat) ∧
    CompletesI (.addI x) s (BitVec.ofNat 16 ((s.ireg.toNat + (s.reg x).toNat) % 65536))

/-- RND: the random byte that this execution consumes, whatever it is, ANDed with the immediate; the byte comes from the
model's own field `env`, of which only this byte is used up (R161; log entry 4). -/
def Obligations.RandomIsMasked : Prop :=
  ∀ (s : State) (x : RegIdx) (nn : Byte),
    ∃ t, exec (.rnd x nn) s = .next t ∧ t.reg x = s.env.nextRnd.1 &&& nn ∧ RegsKept s t [x] ∧ t.pc = s.pc ∧
      BlockKept s t ∧ t.env = s.env.nextRnd.2

/-- A step that executes RND consumes one random byte: the next supplied one, or, when none is supplied, a fresh free value
whose counter advances (R160, R219; the supplied bytes and the counter are the model's own fields, log entry 4). -/
def Obligations.RandomByteIsFreshForEachRnd : Prop :=
  ∀ (s : State) (x : RegIdx) (nn : Byte),
    s.env.schedule = [] → s.halted = false → s.paused = false → s.pc.toNat ≤ 0x0FFE →
    decodeWord (wordOfBytes (s.readByte s.pc.toNat) (s.readByte (s.pc.toNat + 1))) = .ok (.rnd x nn) →
    (∀ (b : Byte) (bs : List Byte), s.env.rndFeed = b :: bs →
      ∃ t, step s = .next t ∧ t.reg x = b &&& nn ∧ t.env.rndFeed = bs ∧ t.env.rndDrawn = s.env.rndDrawn) ∧
    (s.env.rndFeed = [] →
      ∃ t, step s = .next t ∧ t.reg x = Config.freeRnd s.env.rndDrawn &&& nn ∧ t.env.rndFeed = [] ∧
        t.env.rndDrawn = s.env.rndDrawn + 1)

/-- No instruction but RND consumes a random byte, and none but SKP and SKNP samples `KEYS` (R215, R219; the supplied inputs
and the counters are the model's own fields, log entries 4 and 14). -/
def Obligations.InputsAreConsumedOnlyByTheirReaders : Prop :=
  ∀ (i : Instr) (s t : State), exec i s = .next t →
    t.env.schedule = s.env.schedule ∧
    ((∀ x nn, i ≠ .rnd x nn) → t.env.rndFeed = s.env.rndFeed ∧ t.env.rndDrawn = s.env.rndDrawn) ∧
    ((∀ x, i ≠ .skp x) → (∀ x, i ≠ .sknp x) →
      t.env.keysFeed = s.env.keysFeed ∧ t.env.keysDrawn = s.env.keysDrawn)

/-! ### Draw and clear (spec/45_draw.md) -/

/-- DRW: in range, exactly the pixels that a set sprite bit lies on, after wrapping, are inverted, VF = 1 iff one of them
was lit, with coordinates read before VF is written; out of range `AddressError` with nothing drawn (R167; that no
pixel is touched twice is the spec's own derivation in R170 (c), and that the coordinates are read before VF changes, for
X or Y = 15, its own decision D21 in R169). -/
def Obligations.DrawTogglesAndReportsCollision : Prop :=
  ∀ (s : State) (x y : RegIdx) (n : Nibble),
    (n = 0#4 ∨ s.ireg.toNat + n.toNat ≤ 0x1000 →
      ∃ t, exec (.drw x y n) s = .next t ∧
        (∀ px py : Nat, px < 64 → py < 32 →
          (Touched s x y n px py → t.fb.pixel px py = !s.fb.pixel px py) ∧
          (¬ Touched s x y n px py → t.fb.pixel px py = s.fb.pixel px py)) ∧
        (Collides s x y n → t.reg vf = 1#8) ∧ (¬ Collides s x y n → t.reg vf = 0#8) ∧
        RegsKept s t [vf] ∧ t.pc = s.pc ∧ t.ireg = s.ireg ∧ TimersKept s t ∧ t.stack = s.stack ∧ MemKept s t ∧
        ControlKept s t) ∧
    (1 ≤ n.toNat → s.ireg.toNat + n.toNat - 1 > 0x0FFF →
      RaisesIn (.drw x y n) s 2#3 (0xD#4 ++ x ++ y ++ n))

/-- The same DRW twice gives back the frame buffer; the first VF says whether a touched pixel was lit before it, the
second whether one was unlit (R171, the spec's own derivation from R167 and R170). X and Y are not VF, since VF changes between the two. -/
def Obligations.DrawTwiceRestoresScreen : Prop :=
  ∀ (s : State) (x y : RegIdx) (n : Nibble),
    x ≠ vf → y ≠ vf → (n = 0#4 ∨ s.ireg.toNat + n.toNat ≤ 0x1000) →
    ∃ t u, exec (.drw x y n) s = .next t ∧ exec (.drw x y n) t = .next u ∧ u.fb = s.fb ∧
      (t.reg vf = 1#8 ↔ ∃ px py, Touched s x y n px py ∧ s.fb.pixel px py = true) ∧
      (u.reg vf = 1#8 ↔ ∃ px py, Touched s x y n px py ∧ s.fb.pixel px py = false)

/-- CLS: every pixel unlit, VF and everything else unchanged (R168). -/
def Obligations.ClearUnlightsEveryPixel : Prop :=
  ∀ s : State, ∃ t, exec .cls s = .next t ∧ (∀ x y : Nat, t.fb.pixel x y = false) ∧
    RegsKept s t [] ∧ t.pc = s.pc ∧ t.ireg = s.ireg ∧ TimersKept s t ∧ t.stack = s.stack ∧ MemKept s t ∧ ControlKept s t

/-! ### Timers, glyph, decimal, block transfer, key wait (spec/47_timer_misc.md) -/

/-- LD Vx, DT; LD DT, Vx; LD ST, Vx, the last leaving the tone output to the next tick (R185, R186, R187). -/
def Obligations.TimerMoves : Prop :=
  ∀ (s : State) (x : RegIdx),
    CompletesReg (.ldVxDT x) s x s.dt ∧
    (∃ t, exec (.ldDT x) s = .next t ∧ t.dt = s.reg x ∧ t.st = s.st ∧ t.tone = s.tone ∧ RegsKept s t [] ∧
      t.pc = s.pc ∧ t.ireg = s.ireg ∧ t.stack = s.stack ∧ t.fb = s.fb ∧ MemKept s t ∧ ControlKept s t) ∧
    (∃ t, exec (.ldST x) s = .next t ∧ t.st = s.reg x ∧ t.dt = s.dt ∧ t.tone = s.tone ∧ RegsKept s t [] ∧
      t.pc = s.pc ∧ t.ireg = s.ireg ∧ t.stack = s.stack ∧ t.fb = s.fb ∧ MemKept s t ∧ ControlKept s t)

/-- LD F: five times the low nibble of V[X] (R189; above 15 the spec's own decision D10). -/
def Obligations.GlyphAddress : Prop :=
  ∀ (s : State) (x : RegIdx), CompletesI (.ldF x) s (BitVec.ofNat 16 (5 * ((s.reg x).toNat % 16)))

/-- LD B: the three decimal digits at I, I + 1, I + 2 and no other byte changed; out of range `AddressError` with no byte
written (R190). -/
def Obligations.DecimalDigitsStored : Prop :=
  ∀ (s : State) (x : RegIdx),
    (s.ireg.toNat + 2 ≤ 0x0FFF →
      ∃ t, exec (.ldB x) s = .next t ∧
        t.readByte s.ireg.toNat = BitVec.ofNat 8 ((s.reg x).toNat / 100) ∧
        t.readByte (s.ireg.toNat + 1) = BitVec.ofNat 8 ((s.reg x).toNat / 10 % 10) ∧
        t.readByte (s.ireg.toNat + 2) = BitVec.ofNat 8 ((s.reg x).toNat % 10) ∧
        MemKeptBut s t s.ireg.toNat 3 ∧ RegsKept s t [] ∧ t.pc = s.pc ∧ t.ireg = s.ireg ∧ TimersKept s t ∧
        t.stack = s.stack ∧ t.fb = s.fb ∧ ControlKept s t) ∧
    (s.ireg.toNat + 2 > 0x0FFF → RaisesIn (.ldB x) s 2#3 (0xF#4 ++ x ++ 0x33#8))

/-- LD [I], Vx: V[0] to V[X] at I up and no other byte changed, I unchanged; out of range `AddressError` with no byte
written (R191; I kept by the spec's own decision D9). -/
def Obligations.RegistersStored : Prop :=
  ∀ (s : State) (x : RegIdx),
    (s.ireg.toNat + x.toNat ≤ 0x0FFF →
      ∃ t, exec (.storeRegs x) s = .next t ∧
        (∀ r : RegIdx, r.toNat ≤ x.toNat → t.readByte (s.ireg.toNat + r.toNat) = s.reg r) ∧
        MemKeptBut s t s.ireg.toNat (x.toNat + 1) ∧ RegsKept s t [] ∧ t.pc = s.pc ∧ t.ireg = s.ireg ∧ TimersKept s t ∧
        t.stack = s.stack ∧ t.fb = s.fb ∧ ControlKept s t) ∧
    (s.ireg.toNat + x.toNat > 0x0FFF → RaisesIn (.storeRegs x) s 2#3 (0xF#4 ++ x ++ 0x55#8))

/-- LD Vx, [I]: V[0] to V[X] from I up, registers above X and I unchanged; out of range `AddressError` with no register
written (R192; I kept by the spec's own decision D9). -/
def Obligations.RegistersLoaded : Prop :=
  ∀ (s : State) (x : RegIdx),
    (s.ireg.toNat + x.toNat ≤ 0x0FFF →
      ∃ t, exec (.loadRegs x) s = .next t ∧
        (∀ r : RegIdx, r.toNat ≤ x.toNat → t.reg r = s.readByte (s.ireg.toNat + r.toNat)) ∧
        (∀ r : RegIdx, x.toNat < r.toNat → t.reg r = s.reg r) ∧ t.pc = s.pc ∧ RestKept s t) ∧
    (s.ireg.toNat + x.toNat > 0x0FFF → RaisesIn (.loadRegs x) s 2#3 (0xF#4 ++ x ++ 0x65#8))

/-- LD Vx, K: the wait begins, V[X] and `pc` unchanged; and the key press that completes it, in any running state with that
wait pending, writes the key to V[X], ends the wait and leaves `pc` (R193). -/
def Obligations.KeyWaitBeginsAndCompletes : Prop :=
  ∀ (s : State) (x : RegIdx),
    (∃ t, exec (.ldK x) s = .next t ∧ t.paused = true ∧ t.kwait = some x ∧ RegsKept s t [] ∧ t.pc = s.pc ∧
      t.ireg = s.ireg ∧ TimersKept s t ∧ t.stack = s.stack ∧ t.fb = s.fb ∧ MemKept s t ∧ t.halted = s.halted ∧
      t.err = s.err ∧ t.env = s.env) ∧
    (s.halted = false → s.kwait = some x → ∀ k : BitVec 4,
      (s.keyPress k).reg x = BitVec.ofNat 8 k.toNat ∧ RegsKept s (s.keyPress k) [x] ∧
      (s.keyPress k).paused = false ∧ (s.keyPress k).kwait = none ∧ (s.keyPress k).pc = s.pc)

/-! ### What an instruction may change (whole machine) -/

/-- No instruction changes a general register but its destination and, for the six flag-writing ones, VF (R23). -/
def Obligations.RegisterFrame : Prop :=
  ∀ (i : Instr) (s t : State), exec i s = .next t → RegsKept s t (writtenRegs i)

/-- No instruction changes a byte of memory but the bytes from I up that `FX33` and `FX55` store (R52). -/
def Obligations.MemoryFrame : Prop :=
  ∀ (i : Instr) (s t : State), exec i s = .next t → MemKeptBut s t s.ireg.toNat (storedBytes i)

/-- `I` is written by `ANNN`, `FX1E`, `FX29` and by no other instruction (R24; that DRW, `FX33`, `FX55` and `FX65` leave it
is the spec's own decision D9). -/
def Obligations.OnlyThreeInstructionsWriteI : Prop :=
  ∀ (i : Instr) (s t : State), exec i s = .next t → t.ireg ≠ s.ireg →
    (∃ nnn, i = .ldI nnn) ∨ (∃ x, i = .addI x) ∨ (∃ x, i = .ldF x)

/-- The frame buffer is changed only by DRW and CLS, the stack only by CALL and RET, DT only by `FX15`, ST only by `FX18`,
the wait only by `FX0A`, the tone output by no instruction (R28, R32, R36, R43, R51); the model's own field `env` only by
the instructions that read an input (log entries 4 and 14). -/
def Obligations.WritersOfSpecialState : Prop :=
  ∀ (i : Instr) (s t : State), exec i s = .next t →
    (t.fb ≠ s.fb → (∃ x y n, i = .drw x y n) ∨ i = .cls) ∧
    (t.stack ≠ s.stack → (∃ nnn, i = .call nnn) ∨ i = .ret) ∧
    (t.dt ≠ s.dt → ∃ x, i = .ldDT x) ∧
    (t.st ≠ s.st → ∃ x, i = .ldST x) ∧
    (t.paused ≠ s.paused ∨ t.kwait ≠ s.kwait → ∃ x, i = .ldK x) ∧
    (t.env ≠ s.env → (∃ x nn, i = .rnd x nn) ∨ (∃ x, i = .skp x) ∨ (∃ x, i = .sknp x)) ∧
    t.tone = s.tone

/-- Only CALL, RET, DRW, `FX33`, `FX55`, `FX65` can raise a fatal error, each with its own code (R231). -/
def Obligations.InstructionsThatRaise : Prop :=
  ∀ (i : Instr) (s t : State), s.halted = false → exec i s = .next t → t.halted = true →
    ((∃ nnn, i = .call nnn) ∧ t.err.code = 3#3) ∨ (i = .ret ∧ t.err.code = 4#3) ∨
    (((∃ x y n, i = .drw x y n) ∨ (∃ x, i = .ldB x) ∨ (∃ x, i = .storeRegs x) ∨ (∃ x, i = .loadRegs x)) ∧
      t.err.code = 2#3)

/-- Every instruction answers a next state in every state: none stops the machine or is refused (R239; 93, U3). -/
def Obligations.EveryInstructionAnswersNext : Prop :=
  ∀ (i : Instr) (s : State), ∃ t, exec i s = .next t

/-! ### The step (spec/50_engine_and_interfaces.md, spec/60_exceptions.md) -/

/-- When no event is scheduled and the machine is neither halted nor waiting, a step whose bytes at `pc` decode to an
instruction is that instruction's meaning, on the state with `pc` advanced by two (R200 to R202; the schedule is the
model's own field, log entry 5). -/
def Obligations.StepRunsTheDecodedInstruction : Prop :=
  ∀ (s : State) (i : Instr),
    s.env.schedule = [] → s.halted = false → s.paused = false → s.pc.toNat ≤ 0x0FFE →
    decodeWord (wordOfBytes (s.readByte s.pc.toNat) (s.readByte (s.pc.toNat + 1))) = .ok i →
    step s = exec i (s.setPc (s.pc + 2#16))

/-- A step that fetches an illegal word halts the engine with the word and its address in ERR, `pc` advanced, and
nothing else changed (R232). -/
def Obligations.IllegalWordHaltsPrecisely : Prop :=
  ∀ (s : State) (w : Word),
    s.env.schedule = [] → s.halted = false → s.paused = false → s.pc.toNat ≤ 0x0FFE →
    w = wordOfBytes (s.readByte s.pc.toNat) (s.readByte (s.pc.toNat + 1)) → legalWord w = false →
    ∃ t, step s = .next t ∧ Raised s t ⟨1#3, w, s.pc⟩ ∧ t.pc = s.pc + 2#16

/-- A step with `pc` above 0x0FFE halts with `AddressError`, word 0 and that `pc`, which stays (R57, R200, R231). -/
def Obligations.FetchBeyondMemoryHalts : Prop :=
  ∀ s : State, s.env.schedule = [] → s.halted = false → s.paused = false → s.pc.toNat > 0x0FFE →
    ∃ t, step s = .next t ∧ Raised s t ⟨2#3, 0x0000#16, s.pc⟩ ∧ t.pc = s.pc

/-- A step while halted or waiting for a key changes nothing (R200). -/
def Obligations.SuspendedStepChangesNothing : Prop :=
  ∀ s : State, s.env.schedule = [] → s.halted = true ∨ s.paused = true → step s = .next s

/-- Errors are precise: when an unscheduled step halts a running machine, everything but `pc`, `HALTED`, `ERR` is as
before, ERR holds the address of the instruction, and `pc` is that address plus two with the fetched word in ERR, or, for
a failed fetch, that address with word 0 (R237, R231; the contents of ERR are the spec's own decision D13). -/
def Obligations.ErrorsArePrecise : Prop :=
  ∀ s t : State, s.env.schedule = [] → s.halted = false → step s = .next t → t.halted = true →
    Raised s t t.err ∧ t.err.addr = s.pc ∧ t.err.code ≠ 0#3 ∧
      ((s.fetchWord = none ∧ t.pc = s.pc ∧ t.err.word = 0x0000#16 ∧ t.err.code = 2#3) ∨
        (s.fetchWord = some t.err.word ∧ t.pc = s.pc + 2#16))

/-- While halted, every event but a reset leaves the whole state unchanged: the spec's own decision D14, which R34 and R238
mark as such. -/
def Obligations.HaltedIsTerminal : Prop :=
  ∀ (s : State) (e : Event), s.halted = true → e ≠ .reset → (∀ image, e ≠ .boot image) → s.onEvent e = .next s

/-- A store into code is seen by the very next fetch (R63, the spec's own decision D24): after either of the two storing
instructions, `FX55` and `FX33`, the word fetched at any address is made of the new byte where the store wrote one and of
the old byte where it did not, whether both, one or none of the two lie in the stored block (R53, R54). -/
def Obligations.StoreIsSeenByTheNextFetch : Prop :=
  ∀ (s : State) (x : RegIdx) (p : Word), p.toNat ≤ 0x0FFE →
    (s.ireg.toNat + x.toNat ≤ 0x0FFF →
      ∃ t, exec (.storeRegs x) s = .next t ∧
        (t.setPc p).fetchWord = some (wordOfBytes
          (byteAfter s s.ireg.toNat (x.toNat + 1) (fun k => s.reg (BitVec.ofNat 4 k)) p.toNat)
          (byteAfter s s.ireg.toNat (x.toNat + 1) (fun k => s.reg (BitVec.ofNat 4 k)) (p.toNat + 1)))) ∧
    (s.ireg.toNat + 2 ≤ 0x0FFF →
      ∃ t, exec (.ldB x) s = .next t ∧
        (t.setPc p).fetchWord = some (wordOfBytes
          (byteAfter s s.ireg.toNat 3
            (fun k => BitVec.ofNat 8 ((s.reg x).toNat / (if k = 0 then 100 else if k = 1 then 10 else 1) % 10)) p.toNat)
          (byteAfter s s.ireg.toNat 3
            (fun k => BitVec.ofNat 8 ((s.reg x).toNat / (if k = 0 then 100 else if k = 1 then 10 else 1) % 10))
            (p.toNat + 1))))

/-! ### Events (spec/50_engine_and_interfaces.md, spec/70_reset_and_hazards.md) -/

/-- Tick: unless halted, each timer one less, floored at 0, the tone output active iff the new ST is not 0, nothing else
changed, waiting or not; while halted nothing (R211). -/
def Obligations.TickCountsDownAndReportsTone : Prop :=
  ∀ s : State,
    (s.halted = true → s.tick = s) ∧
    (s.halted = false →
      s.tick.dt.toNat = s.dt.toNat - 1 ∧ s.tick.st.toNat = s.st.toNat - 1 ∧ (s.tick.tone = true ↔ s.tick.st ≠ 0#8) ∧
      RegsKept s s.tick [] ∧ s.tick.pc = s.pc ∧ s.tick.ireg = s.ireg ∧ s.tick.stack = s.stack ∧ s.tick.fb = s.fb ∧
      MemKept s s.tick ∧ ControlKept s s.tick)

/-- KeyPress: it serves a pending wait, register written and wait ended at once, or has no effect (R218; that a press
with no wait pending is dropped is the spec's own decision D20). -/
def Obligations.KeyPressServesAPendingWait : Prop :=
  ∀ (s : State) (k : BitVec 4),
    (s.halted = true → s.keyPress k = s) ∧
    (s.kwait = none → s.keyPress k = s) ∧
    (∀ x, s.halted = false → s.kwait = some x →
      (s.keyPress k).reg x = BitVec.ofNat 8 k.toNat ∧ (s.keyPress k).paused = false ∧ (s.keyPress k).kwait = none ∧
      RegsKept s (s.keyPress k) [x] ∧ (s.keyPress k).pc = s.pc ∧ (s.keyPress k).ireg = s.ireg ∧
      TimersKept s (s.keyPress k) ∧ (s.keyPress k).stack = s.stack ∧ (s.keyPress k).fb = s.fb ∧
      MemKept s (s.keyPress k) ∧ (s.keyPress k).halted = s.halted ∧ (s.keyPress k).err = s.err)

/-- Only a key press, or a reset, ends the wait for a key (R32, R194 c). -/
def Obligations.OnlyAKeyPressEndsTheWait : Prop :=
  ∀ (s t : State) (e : Event), s.paused = true → s.onEvent e = .next t → t.paused = false →
    (∃ k, e = .keyPress k) ∨ e = .reset ∨ ∃ image, e = .boot image

/-- Reset: every field of R260, from any state; memory is the font below 0x050 and the launch bytes above. The zeros are
the spec's own decision D15 and the font bytes its default table D17 (log entries 2, 3, 17). -/
def Obligations.ResetValues : Prop :=
  ∀ s : State,
    (∀ r : RegIdx, s.onReset.reg r = 0#8) ∧ s.onReset.ireg = 0#16 ∧ s.onReset.pc = 0x0200#16 ∧
    s.onReset.dt = 0#8 ∧ s.onReset.st = 0#8 ∧ s.onReset.stack = [] ∧ s.onReset.paused = false ∧
    s.onReset.kwait = none ∧ s.onReset.halted = false ∧ s.onReset.err = ⟨0#3, 0#16, 0#16⟩ ∧ s.onReset.tone = false ∧
    (∀ x y : Nat, s.onReset.fb.pixel x y = false) ∧
    (∀ a : Nat, a < 0x50 → fontRom[a]? = some (s.onReset.readByte a)) ∧
    (∀ a : Nat, 0x50 ≤ a → s.onReset.readByte a = Config.memInit a)

/-- Boot: an image of at most 3584 bytes is copied to 0x200 up and nothing else differs from reset; a longer one is
refused by name (R216, R262; the refusal is the spec's own decision D27, and that `Load` follows `Reset` at once is the
model's choice, log entry 6). -/
def Obligations.BootLoadsTheImage : Prop :=
  ∀ (s : State) (image : List Byte),
    (image.length ≤ 3584 →
      ∃ t, s.boot image = .next t ∧
        (∀ k : Nat, k < image.length → some (t.readByte (0x200 + k)) = image[k]?) ∧
        MemKeptBut s.onReset t 0x200 image.length ∧ RegsKept s.onReset t [] ∧ t.pc = 0x0200#16 ∧
        t.ireg = s.onReset.ireg ∧ TimersKept s.onReset t ∧ t.stack = [] ∧ t.fb = s.onReset.fb ∧
        ControlKept s.onReset t) ∧
    (3584 < image.length → s.boot image = .refused .oversizedImage)

/-- RunCycles: a batch started while halted does nothing; a batch of no steps still ticks and redraws; a step that halts
ends the batch before its tick and redraw, with the error; any other step is followed by the rest of the batch (R210). That a batch
started while halted does nothing is the spec's own decision D14; that one of no steps then answers ERR, without redraw, is
the model's choice (log entry 21). -/
def Obligations.CycleBatch : Prop :=
  ∀ (n : Nat) (s : State),
    (s.halted = true → runCycles n s = .next ⟨s, false, some s.err⟩) ∧
    (s.halted = false → runCycles 0 s = .next ⟨s.tick, true, none⟩) ∧
    (s.halted = false → ∃ t, engineStep s = .next t ∧
      (t.halted = true → runCycles (n + 1) s = .next ⟨t, false, some t.err⟩) ∧
      (t.halted = false → runCycles (n + 1) s = runCycles n t))

/-- A batch is its events one by one: when the schedule holds `n` steps and a tick, `n + 1` transitions of the machine
reach exactly the state of `RunCycles(n)` (R210, R222; the schedule is the model's own field, log entry 5). -/
def Obligations.BatchIsItsEvents : Prop :=
  ∀ (n : Nat) (s : State), s.env.schedule = batchEvents n →
    ∃ r, runCycles n (s.setEnv { s.env with schedule := [] }) = .next r ∧
      Host.Core.run Sys2Proof.core (n + 1) s = .next r.state

/-! ### Invariants -/

/-- Every transition of the machine keeps the invariant, from every state that has it (R29, R33, R34, R35, R144). -/
def Obligations.StepKeepsInvariant : Prop :=
  ∀ s t : State, MachineInv s → step s = .next t → MachineInv t

/-- The invariant holds right after reset. -/
def Obligations.ResetHasInvariant : Prop :=
  MachineInv State.reset

/-- The machine answers a next state in every state, but for the boot event with an image that does not fit, whose refusal
is the spec's own decision D27 (R216); the scheduled boot event is the model's own (log entries 5 and 6). -/
def Obligations.OnlyAnOversizedImageStops : Prop :=
  ∀ s : State, (∃ t, step s = .next t) ∨
    (step s = .refused .oversizedImage ∧
      ∃ image es, s.env.schedule = .boot image :: es ∧ 3584 < image.length)

/-- Equal memories are equal data: two canonical memories with the same contents are the same list. The list and its
canonical form are the model's own representation of MEM (log entry 2); no rule of the spec speaks of them. -/
def Obligations.CanonicalMemoryIsUnique : Prop :=
  ∀ m₁ m₂ : Memory, Memory.wf m₁ = true → Memory.wf m₂ = true →
    (∀ a, Memory.content m₁ a = Memory.content m₂ a) → m₁ = m₂
end

