-- ==== Sys2Proof/Laws/Encoding.lean ====
section
/-!
SUPPORT. The fields and the masked words of the three layouts an instruction word has (spec/30_encoding.md R82, R83):
four nibbles, two nibbles and a byte, a nibble and a 12-bit address.
-/

namespace Sys2Proof

theorem extractLsb'_low {a b : Nat} (h : BitVec a) (l : BitVec b) : (h ++ l).extractLsb' 0 b = l :=
  BitVec.extractLsb'_append_eq_right

/-! ### Four nibbles (formats XYS, XYN) -/

theorem fieldN_nibbles (g x y n : BitVec 4) : fieldN (g ++ x ++ y ++ n) = n := extractLsb'_low _ _

theorem fieldY_nibbles (g x y n : BitVec 4) : fieldY (g ++ x ++ y ++ n) = y := by
  show ((g ++ x ++ y) ++ n).extractLsb' (0 + 4) 4 = y
  rw [BitVec.extractLsb'_append_eq_of_le (by decide)]
  exact extractLsb'_low _ _

theorem fieldX_nibbles (g x y n : BitVec 4) : fieldX (g ++ x ++ y ++ n) = x := by
  show ((g ++ x ++ y) ++ n).extractLsb' (4 + 4) 4 = x
  rw [BitVec.extractLsb'_append_eq_of_le (by decide)]
  show ((g ++ x) ++ y).extractLsb' (0 + 4) 4 = x
  rw [BitVec.extractLsb'_append_eq_of_le (by decide)]
  exact extractLsb'_low _ _

theorem fieldG_nibbles (g x y n : BitVec 4) : fieldG (g ++ x ++ y ++ n) = g := by
  show ((g ++ x ++ y) ++ n).extractLsb' (8 + 4) 4 = g
  rw [BitVec.extractLsb'_append_eq_of_le (by decide)]
  show ((g ++ x) ++ y).extractLsb' (4 + 4) 4 = g
  rw [BitVec.extractLsb'_append_eq_of_le (by decide)]
  show (g ++ x).extractLsb' (0 + 4) 4 = g
  rw [BitVec.extractLsb'_append_eq_of_le (by decide)]
  exact BitVec.extractLsb'_eq_self

theorem mask_nibbles (g x y n : BitVec 4) :
    (g ++ x ++ y ++ n : BitVec 16) &&& 0xF00F#16 = (g ++ 0#4 ++ 0#4 ++ n : BitVec 16) := by
  show (g ++ x ++ y ++ n) &&& (BitVec.allOnes 4 ++ 0#4 ++ 0#4 ++ BitVec.allOnes 4) = (_ : BitVec (4 + 4 + 4 + 4))
  rw [BitVec.and_append, BitVec.and_append, BitVec.and_append]
  simp only [BitVec.and_allOnes, BitVec.and_zero]

theorem mask_group_nibbles (g x y n : BitVec 4) :
    (g ++ x ++ y ++ n : BitVec 16) &&& 0xF000#16 = (g ++ 0#4 ++ 0#4 ++ 0#4 : BitVec 16) := by
  show (g ++ x ++ y ++ n) &&& (BitVec.allOnes 4 ++ 0#4 ++ 0#4 ++ 0#4) = (_ : BitVec (4 + 4 + 4 + 4))
  rw [BitVec.and_append, BitVec.and_append, BitVec.and_append]
  simp only [BitVec.and_allOnes, BitVec.and_zero]

/-! ### Two nibbles and a byte (formats XNN, XSS) -/

theorem fieldNN_byte (g x : BitVec 4) (nn : Byte) : fieldNN (g ++ x ++ nn) = nn := extractLsb'_low _ _

theorem fieldX_byte (g x : BitVec 4) (nn : Byte) : fieldX (g ++ x ++ nn) = x := by
  show ((g ++ x) ++ nn).extractLsb' (0 + 8) 4 = x
  rw [BitVec.extractLsb'_append_eq_of_le (by decide)]
  exact extractLsb'_low _ _

theorem fieldG_byte (g x : BitVec 4) (nn : Byte) : fieldG (g ++ x ++ nn) = g := by
  show ((g ++ x) ++ nn).extractLsb' (4 + 8) 4 = g
  rw [BitVec.extractLsb'_append_eq_of_le (by decide)]
  show (g ++ x).extractLsb' (0 + 4) 4 = g
  rw [BitVec.extractLsb'_append_eq_of_le (by decide)]
  exact BitVec.extractLsb'_eq_self

theorem mask_byte (g x : BitVec 4) (nn : Byte) :
    (g ++ x ++ nn : BitVec 16) &&& 0xF0FF#16 = (g ++ 0#4 ++ nn : BitVec 16) := by
  show (g ++ x ++ nn) &&& (BitVec.allOnes 4 ++ 0#4 ++ BitVec.allOnes 8) = (_ : BitVec (4 + 4 + 8))
  rw [BitVec.and_append, BitVec.and_append]
  simp only [BitVec.and_allOnes, BitVec.and_zero]

theorem mask_group_byte (g x : BitVec 4) (nn : Byte) :
    (g ++ x ++ nn : BitVec 16) &&& 0xF000#16 = (g ++ 0#4 ++ 0#8 : BitVec 16) := by
  show (g ++ x ++ nn) &&& (BitVec.allOnes 4 ++ 0#4 ++ 0#8) = (_ : BitVec (4 + 4 + 8))
  rw [BitVec.and_append, BitVec.and_append]
  simp only [BitVec.and_allOnes, BitVec.and_zero]

/-! ### A nibble and an address (format ADDR) -/

theorem fieldNNN_addr (g : BitVec 4) (nnn : Addr12) : fieldNNN (g ++ nnn) = nnn := extractLsb'_low _ _

theorem fieldG_addr (g : BitVec 4) (nnn : Addr12) : fieldG (g ++ nnn) = g := by
  show (g ++ nnn).extractLsb' (0 + 12) 4 = g
  rw [BitVec.extractLsb'_append_eq_of_le (by decide)]
  exact BitVec.extractLsb'_eq_self

theorem mask_group_addr (g : BitVec 4) (nnn : Addr12) :
    (g ++ nnn : BitVec 16) &&& 0xF000#16 = (g ++ 0#12 : BitVec 16) := by
  show (g ++ nnn) &&& (BitVec.allOnes 4 ++ 0#12) = (_ : BitVec (4 + 12))
  rw [BitVec.and_append]
  simp only [BitVec.and_allOnes, BitVec.and_zero]

end Sys2Proof
end

