-- ==== Sys2Proof/Laws/State.lean ====
section
/-!
SUPPORT. One lemma per field per named update of the state, true by rfl and used by simp, so that no proof unfolds an
update; and the registers read after each update.
-/

namespace Sys2Proof.Machine

open Sys2Proof

@[simp] theorem State.setReg_ireg (s : State) (x : RegIdx) (b : Byte) : (s.setReg x b).ireg = s.ireg := rfl
@[simp] theorem State.setReg_pc (s : State) (x : RegIdx) (b : Byte) : (s.setReg x b).pc = s.pc := rfl
@[simp] theorem State.setReg_dt (s : State) (x : RegIdx) (b : Byte) : (s.setReg x b).dt = s.dt := rfl
@[simp] theorem State.setReg_st (s : State) (x : RegIdx) (b : Byte) : (s.setReg x b).st = s.st := rfl
@[simp] theorem State.setReg_stack (s : State) (x : RegIdx) (b : Byte) : (s.setReg x b).stack = s.stack := rfl
@[simp] theorem State.setReg_paused (s : State) (x : RegIdx) (b : Byte) : (s.setReg x b).paused = s.paused := rfl
@[simp] theorem State.setReg_kwait (s : State) (x : RegIdx) (b : Byte) : (s.setReg x b).kwait = s.kwait := rfl
@[simp] theorem State.setReg_halted (s : State) (x : RegIdx) (b : Byte) : (s.setReg x b).halted = s.halted := rfl
@[simp] theorem State.setReg_err (s : State) (x : RegIdx) (b : Byte) : (s.setReg x b).err = s.err := rfl
@[simp] theorem State.setReg_tone (s : State) (x : RegIdx) (b : Byte) : (s.setReg x b).tone = s.tone := rfl
@[simp] theorem State.setReg_mem (s : State) (x : RegIdx) (b : Byte) : (s.setReg x b).mem = s.mem := rfl
@[simp] theorem State.setReg_fb (s : State) (x : RegIdx) (b : Byte) : (s.setReg x b).fb = s.fb := rfl
@[simp] theorem State.setReg_env (s : State) (x : RegIdx) (b : Byte) : (s.setReg x b).env = s.env := rfl

@[simp] theorem State.setPc_v (s : State) (t : Word) : (s.setPc t).v = s.v := rfl
@[simp] theorem State.setPc_ireg (s : State) (t : Word) : (s.setPc t).ireg = s.ireg := rfl
@[simp] theorem State.setPc_pc (s : State) (t : Word) : (s.setPc t).pc = t := rfl
@[simp] theorem State.setPc_dt (s : State) (t : Word) : (s.setPc t).dt = s.dt := rfl
@[simp] theorem State.setPc_st (s : State) (t : Word) : (s.setPc t).st = s.st := rfl
@[simp] theorem State.setPc_stack (s : State) (t : Word) : (s.setPc t).stack = s.stack := rfl
@[simp] theorem State.setPc_paused (s : State) (t : Word) : (s.setPc t).paused = s.paused := rfl
@[simp] theorem State.setPc_kwait (s : State) (t : Word) : (s.setPc t).kwait = s.kwait := rfl
@[simp] theorem State.setPc_halted (s : State) (t : Word) : (s.setPc t).halted = s.halted := rfl
@[simp] theorem State.setPc_err (s : State) (t : Word) : (s.setPc t).err = s.err := rfl
@[simp] theorem State.setPc_tone (s : State) (t : Word) : (s.setPc t).tone = s.tone := rfl
@[simp] theorem State.setPc_mem (s : State) (t : Word) : (s.setPc t).mem = s.mem := rfl
@[simp] theorem State.setPc_fb (s : State) (t : Word) : (s.setPc t).fb = s.fb := rfl
@[simp] theorem State.setPc_env (s : State) (t : Word) : (s.setPc t).env = s.env := rfl

@[simp] theorem State.setI_v (s : State) (t : Word) : (s.setI t).v = s.v := rfl
@[simp] theorem State.setI_ireg (s : State) (t : Word) : (s.setI t).ireg = t := rfl
@[simp] theorem State.setI_pc (s : State) (t : Word) : (s.setI t).pc = s.pc := rfl
@[simp] theorem State.setI_dt (s : State) (t : Word) : (s.setI t).dt = s.dt := rfl
@[simp] theorem State.setI_st (s : State) (t : Word) : (s.setI t).st = s.st := rfl
@[simp] theorem State.setI_stack (s : State) (t : Word) : (s.setI t).stack = s.stack := rfl
@[simp] theorem State.setI_paused (s : State) (t : Word) : (s.setI t).paused = s.paused := rfl
@[simp] theorem State.setI_kwait (s : State) (t : Word) : (s.setI t).kwait = s.kwait := rfl
@[simp] theorem State.setI_halted (s : State) (t : Word) : (s.setI t).halted = s.halted := rfl
@[simp] theorem State.setI_err (s : State) (t : Word) : (s.setI t).err = s.err := rfl
@[simp] theorem State.setI_tone (s : State) (t : Word) : (s.setI t).tone = s.tone := rfl
@[simp] theorem State.setI_mem (s : State) (t : Word) : (s.setI t).mem = s.mem := rfl
@[simp] theorem State.setI_fb (s : State) (t : Word) : (s.setI t).fb = s.fb := rfl
@[simp] theorem State.setI_env (s : State) (t : Word) : (s.setI t).env = s.env := rfl

@[simp] theorem State.setDT_v (s : State) (b : Byte) : (s.setDT b).v = s.v := rfl
@[simp] theorem State.setDT_ireg (s : State) (b : Byte) : (s.setDT b).ireg = s.ireg := rfl
@[simp] theorem State.setDT_pc (s : State) (b : Byte) : (s.setDT b).pc = s.pc := rfl
@[simp] theorem State.setDT_dt (s : State) (b : Byte) : (s.setDT b).dt = b := rfl
@[simp] theorem State.setDT_st (s : State) (b : Byte) : (s.setDT b).st = s.st := rfl
@[simp] theorem State.setDT_stack (s : State) (b : Byte) : (s.setDT b).stack = s.stack := rfl
@[simp] theorem State.setDT_paused (s : State) (b : Byte) : (s.setDT b).paused = s.paused := rfl
@[simp] theorem State.setDT_kwait (s : State) (b : Byte) : (s.setDT b).kwait = s.kwait := rfl
@[simp] theorem State.setDT_halted (s : State) (b : Byte) : (s.setDT b).halted = s.halted := rfl
@[simp] theorem State.setDT_err (s : State) (b : Byte) : (s.setDT b).err = s.err := rfl
@[simp] theorem State.setDT_tone (s : State) (b : Byte) : (s.setDT b).tone = s.tone := rfl
@[simp] theorem State.setDT_mem (s : State) (b : Byte) : (s.setDT b).mem = s.mem := rfl
@[simp] theorem State.setDT_fb (s : State) (b : Byte) : (s.setDT b).fb = s.fb := rfl
@[simp] theorem State.setDT_env (s : State) (b : Byte) : (s.setDT b).env = s.env := rfl

@[simp] theorem State.setST_v (s : State) (b : Byte) : (s.setST b).v = s.v := rfl
@[simp] theorem State.setST_ireg (s : State) (b : Byte) : (s.setST b).ireg = s.ireg := rfl
@[simp] theorem State.setST_pc (s : State) (b : Byte) : (s.setST b).pc = s.pc := rfl
@[simp] theorem State.setST_dt (s : State) (b : Byte) : (s.setST b).dt = s.dt := rfl
@[simp] theorem State.setST_st (s : State) (b : Byte) : (s.setST b).st = b := rfl
@[simp] theorem State.setST_stack (s : State) (b : Byte) : (s.setST b).stack = s.stack := rfl
@[simp] theorem State.setST_paused (s : State) (b : Byte) : (s.setST b).paused = s.paused := rfl
@[simp] theorem State.setST_kwait (s : State) (b : Byte) : (s.setST b).kwait = s.kwait := rfl
@[simp] theorem State.setST_halted (s : State) (b : Byte) : (s.setST b).halted = s.halted := rfl
@[simp] theorem State.setST_err (s : State) (b : Byte) : (s.setST b).err = s.err := rfl
@[simp] theorem State.setST_tone (s : State) (b : Byte) : (s.setST b).tone = s.tone := rfl
@[simp] theorem State.setST_mem (s : State) (b : Byte) : (s.setST b).mem = s.mem := rfl
@[simp] theorem State.setST_fb (s : State) (b : Byte) : (s.setST b).fb = s.fb := rfl
@[simp] theorem State.setST_env (s : State) (b : Byte) : (s.setST b).env = s.env := rfl

@[simp] theorem State.setStack_v (s : State) (l : List Word) : (s.setStack l).v = s.v := rfl
@[simp] theorem State.setStack_ireg (s : State) (l : List Word) : (s.setStack l).ireg = s.ireg := rfl
@[simp] theorem State.setStack_pc (s : State) (l : List Word) : (s.setStack l).pc = s.pc := rfl
@[simp] theorem State.setStack_dt (s : State) (l : List Word) : (s.setStack l).dt = s.dt := rfl
@[simp] theorem State.setStack_st (s : State) (l : List Word) : (s.setStack l).st = s.st := rfl
@[simp] theorem State.setStack_stack (s : State) (l : List Word) : (s.setStack l).stack = l := rfl
@[simp] theorem State.setStack_paused (s : State) (l : List Word) : (s.setStack l).paused = s.paused := rfl
@[simp] theorem State.setStack_kwait (s : State) (l : List Word) : (s.setStack l).kwait = s.kwait := rfl
@[simp] theorem State.setStack_halted (s : State) (l : List Word) : (s.setStack l).halted = s.halted := rfl
@[simp] theorem State.setStack_err (s : State) (l : List Word) : (s.setStack l).err = s.err := rfl
@[simp] theorem State.setStack_tone (s : State) (l : List Word) : (s.setStack l).tone = s.tone := rfl
@[simp] theorem State.setStack_mem (s : State) (l : List Word) : (s.setStack l).mem = s.mem := rfl
@[simp] theorem State.setStack_fb (s : State) (l : List Word) : (s.setStack l).fb = s.fb := rfl
@[simp] theorem State.setStack_env (s : State) (l : List Word) : (s.setStack l).env = s.env := rfl

@[simp] theorem State.setMem_v (s : State) (m : Memory) : (s.setMem m).v = s.v := rfl
@[simp] theorem State.setMem_ireg (s : State) (m : Memory) : (s.setMem m).ireg = s.ireg := rfl
@[simp] theorem State.setMem_pc (s : State) (m : Memory) : (s.setMem m).pc = s.pc := rfl
@[simp] theorem State.setMem_dt (s : State) (m : Memory) : (s.setMem m).dt = s.dt := rfl
@[simp] theorem State.setMem_st (s : State) (m : Memory) : (s.setMem m).st = s.st := rfl
@[simp] theorem State.setMem_stack (s : State) (m : Memory) : (s.setMem m).stack = s.stack := rfl
@[simp] theorem State.setMem_paused (s : State) (m : Memory) : (s.setMem m).paused = s.paused := rfl
@[simp] theorem State.setMem_kwait (s : State) (m : Memory) : (s.setMem m).kwait = s.kwait := rfl
@[simp] theorem State.setMem_halted (s : State) (m : Memory) : (s.setMem m).halted = s.halted := rfl
@[simp] theorem State.setMem_err (s : State) (m : Memory) : (s.setMem m).err = s.err := rfl
@[simp] theorem State.setMem_tone (s : State) (m : Memory) : (s.setMem m).tone = s.tone := rfl
@[simp] theorem State.setMem_mem (s : State) (m : Memory) : (s.setMem m).mem = m := rfl
@[simp] theorem State.setMem_fb (s : State) (m : Memory) : (s.setMem m).fb = s.fb := rfl
@[simp] theorem State.setMem_env (s : State) (m : Memory) : (s.setMem m).env = s.env := rfl

@[simp] theorem State.setFb_v (s : State) (f : FrameBuffer) : (s.setFb f).v = s.v := rfl
@[simp] theorem State.setFb_ireg (s : State) (f : FrameBuffer) : (s.setFb f).ireg = s.ireg := rfl
@[simp] theorem State.setFb_pc (s : State) (f : FrameBuffer) : (s.setFb f).pc = s.pc := rfl
@[simp] theorem State.setFb_dt (s : State) (f : FrameBuffer) : (s.setFb f).dt = s.dt := rfl
@[simp] theorem State.setFb_st (s : State) (f : FrameBuffer) : (s.setFb f).st = s.st := rfl
@[simp] theorem State.setFb_stack (s : State) (f : FrameBuffer) : (s.setFb f).stack = s.stack := rfl
@[simp] theorem State.setFb_paused (s : State) (f : FrameBuffer) : (s.setFb f).paused = s.paused := rfl
@[simp] theorem State.setFb_kwait (s : State) (f : FrameBuffer) : (s.setFb f).kwait = s.kwait := rfl
@[simp] theorem State.setFb_halted (s : State) (f : FrameBuffer) : (s.setFb f).halted = s.halted := rfl
@[simp] theorem State.setFb_err (s : State) (f : FrameBuffer) : (s.setFb f).err = s.err := rfl
@[simp] theorem State.setFb_tone (s : State) (f : FrameBuffer) : (s.setFb f).tone = s.tone := rfl
@[simp] theorem State.setFb_mem (s : State) (f : FrameBuffer) : (s.setFb f).mem = s.mem := rfl
@[simp] theorem State.setFb_fb (s : State) (f : FrameBuffer) : (s.setFb f).fb = f := rfl
@[simp] theorem State.setFb_env (s : State) (f : FrameBuffer) : (s.setFb f).env = s.env := rfl

@[simp] theorem State.setEnv_v (s : State) (e : Env) : (s.setEnv e).v = s.v := rfl
@[simp] theorem State.setEnv_ireg (s : State) (e : Env) : (s.setEnv e).ireg = s.ireg := rfl
@[simp] theorem State.setEnv_pc (s : State) (e : Env) : (s.setEnv e).pc = s.pc := rfl
@[simp] theorem State.setEnv_dt (s : State) (e : Env) : (s.setEnv e).dt = s.dt := rfl
@[simp] theorem State.setEnv_st (s : State) (e : Env) : (s.setEnv e).st = s.st := rfl
@[simp] theorem State.setEnv_stack (s : State) (e : Env) : (s.setEnv e).stack = s.stack := rfl
@[simp] theorem State.setEnv_paused (s : State) (e : Env) : (s.setEnv e).paused = s.paused := rfl
@[simp] theorem State.setEnv_kwait (s : State) (e : Env) : (s.setEnv e).kwait = s.kwait := rfl
@[simp] theorem State.setEnv_halted (s : State) (e : Env) : (s.setEnv e).halted = s.halted := rfl
@[simp] theorem State.setEnv_err (s : State) (e : Env) : (s.setEnv e).err = s.err := rfl
@[simp] theorem State.setEnv_tone (s : State) (e : Env) : (s.setEnv e).tone = s.tone := rfl
@[simp] theorem State.setEnv_mem (s : State) (e : Env) : (s.setEnv e).mem = s.mem := rfl
@[simp] theorem State.setEnv_fb (s : State) (e : Env) : (s.setEnv e).fb = s.fb := rfl
@[simp] theorem State.setEnv_env (s : State) (e : Env) : (s.setEnv e).env = e := rfl

@[simp] theorem State.waitKey_v (s : State) (x : RegIdx) : (s.waitKey x).v = s.v := rfl
@[simp] theorem State.waitKey_ireg (s : State) (x : RegIdx) : (s.waitKey x).ireg = s.ireg := rfl
@[simp] theorem State.waitKey_pc (s : State) (x : RegIdx) : (s.waitKey x).pc = s.pc := rfl
@[simp] theorem State.waitKey_dt (s : State) (x : RegIdx) : (s.waitKey x).dt = s.dt := rfl
@[simp] theorem State.waitKey_st (s : State) (x : RegIdx) : (s.waitKey x).st = s.st := rfl
@[simp] theorem State.waitKey_stack (s : State) (x : RegIdx) : (s.waitKey x).stack = s.stack := rfl
@[simp] theorem State.waitKey_paused (s : State) (x : RegIdx) : (s.waitKey x).paused = true := rfl
@[simp] theorem State.waitKey_kwait (s : State) (x : RegIdx) : (s.waitKey x).kwait = some x := rfl
@[simp] theorem State.waitKey_halted (s : State) (x : RegIdx) : (s.waitKey x).halted = s.halted := rfl
@[simp] theorem State.waitKey_err (s : State) (x : RegIdx) : (s.waitKey x).err = s.err := rfl
@[simp] theorem State.waitKey_tone (s : State) (x : RegIdx) : (s.waitKey x).tone = s.tone := rfl
@[simp] theorem State.waitKey_mem (s : State) (x : RegIdx) : (s.waitKey x).mem = s.mem := rfl
@[simp] theorem State.waitKey_fb (s : State) (x : RegIdx) : (s.waitKey x).fb = s.fb := rfl
@[simp] theorem State.waitKey_env (s : State) (x : RegIdx) : (s.waitKey x).env = s.env := rfl

@[simp] theorem State.endWait_v (s : State) : (s.endWait).v = s.v := rfl
@[simp] theorem State.endWait_ireg (s : State) : (s.endWait).ireg = s.ireg := rfl
@[simp] theorem State.endWait_pc (s : State) : (s.endWait).pc = s.pc := rfl
@[simp] theorem State.endWait_dt (s : State) : (s.endWait).dt = s.dt := rfl
@[simp] theorem State.endWait_st (s : State) : (s.endWait).st = s.st := rfl
@[simp] theorem State.endWait_stack (s : State) : (s.endWait).stack = s.stack := rfl
@[simp] theorem State.endWait_paused (s : State) : (s.endWait).paused = false := rfl
@[simp] theorem State.endWait_kwait (s : State) : (s.endWait).kwait = none := rfl
@[simp] theorem State.endWait_halted (s : State) : (s.endWait).halted = s.halted := rfl
@[simp] theorem State.endWait_err (s : State) : (s.endWait).err = s.err := rfl
@[simp] theorem State.endWait_tone (s : State) : (s.endWait).tone = s.tone := rfl
@[simp] theorem State.endWait_mem (s : State) : (s.endWait).mem = s.mem := rfl
@[simp] theorem State.endWait_fb (s : State) : (s.endWait).fb = s.fb := rfl
@[simp] theorem State.endWait_env (s : State) : (s.endWait).env = s.env := rfl

@[simp] theorem State.raise_v (s : State) (e : ErrorCause) (w a : Word) : (s.raise e w a).v = s.v := rfl
@[simp] theorem State.raise_ireg (s : State) (e : ErrorCause) (w a : Word) : (s.raise e w a).ireg = s.ireg := rfl
@[simp] theorem State.raise_pc (s : State) (e : ErrorCause) (w a : Word) : (s.raise e w a).pc = s.pc := rfl
@[simp] theorem State.raise_dt (s : State) (e : ErrorCause) (w a : Word) : (s.raise e w a).dt = s.dt := rfl
@[simp] theorem State.raise_st (s : State) (e : ErrorCause) (w a : Word) : (s.raise e w a).st = s.st := rfl
@[simp] theorem State.raise_stack (s : State) (e : ErrorCause) (w a : Word) : (s.raise e w a).stack = s.stack := rfl
@[simp] theorem State.raise_paused (s : State) (e : ErrorCause) (w a : Word) : (s.raise e w a).paused = s.paused := rfl
@[simp] theorem State.raise_kwait (s : State) (e : ErrorCause) (w a : Word) : (s.raise e w a).kwait = s.kwait := rfl
@[simp] theorem State.raise_halted (s : State) (e : ErrorCause) (w a : Word) : (s.raise e w a).halted = true := rfl
@[simp] theorem State.raise_err (s : State) (e : ErrorCause) (w a : Word) : (s.raise e w a).err = ⟨e.code, w, a⟩ := rfl
@[simp] theorem State.raise_tone (s : State) (e : ErrorCause) (w a : Word) : (s.raise e w a).tone = s.tone := rfl
@[simp] theorem State.raise_mem (s : State) (e : ErrorCause) (w a : Word) : (s.raise e w a).mem = s.mem := rfl
@[simp] theorem State.raise_fb (s : State) (e : ErrorCause) (w a : Word) : (s.raise e w a).fb = s.fb := rfl
@[simp] theorem State.raise_env (s : State) (e : ErrorCause) (w a : Word) : (s.raise e w a).env = s.env := rfl

theorem State.reg_setReg (s : State) (x r : RegIdx) (b : Byte) :
    (s.setReg x b).reg r = if r = x then b else s.reg r := by
  unfold State.reg State.setReg
  by_cases h : r = x
  · subst h; simp
  · have : x.toNat ≠ r.toNat := fun e => h (BitVec.eq_of_toNat_eq e).symm
    simp [h, this]

@[simp] theorem State.reg_setReg_same (s : State) (x : RegIdx) (b : Byte) : (s.setReg x b).reg x = b := by
  simp [State.reg_setReg]

theorem State.reg_setReg_other (s : State) (x r : RegIdx) (b : Byte) (h : r ≠ x) :
    (s.setReg x b).reg r = s.reg r := by
  simp [State.reg_setReg, h]

@[simp] theorem State.setPc_reg (s : State) (t : Word) (r : RegIdx) : (s.setPc t).reg r = s.reg r := rfl
@[simp] theorem State.setI_reg (s : State) (t : Word) (r : RegIdx) : (s.setI t).reg r = s.reg r := rfl
@[simp] theorem State.setDT_reg (s : State) (b : Byte) (r : RegIdx) : (s.setDT b).reg r = s.reg r := rfl
@[simp] theorem State.setST_reg (s : State) (b : Byte) (r : RegIdx) : (s.setST b).reg r = s.reg r := rfl
@[simp] theorem State.setStack_reg (s : State) (l : List Word) (r : RegIdx) : (s.setStack l).reg r = s.reg r := rfl
@[simp] theorem State.setMem_reg (s : State) (m : Memory) (r : RegIdx) : (s.setMem m).reg r = s.reg r := rfl
@[simp] theorem State.setFb_reg (s : State) (f : FrameBuffer) (r : RegIdx) : (s.setFb f).reg r = s.reg r := rfl
@[simp] theorem State.setEnv_reg (s : State) (e : Env) (r : RegIdx) : (s.setEnv e).reg r = s.reg r := rfl
@[simp] theorem State.waitKey_reg (s : State) (x : RegIdx) (r : RegIdx) : (s.waitKey x).reg r = s.reg r := rfl
@[simp] theorem State.endWait_reg (s : State) (r : RegIdx) : (s.endWait).reg r = s.reg r := rfl
@[simp] theorem State.raise_reg (s : State) (e : ErrorCause) (w a : Word) (r : RegIdx) : (s.raise e w a).reg r = s.reg r := rfl

@[simp] theorem State.setReg_readByte (s : State) (x : RegIdx) (b : Byte) (k : Nat) : (s.setReg x b).readByte k = s.readByte k := rfl
@[simp] theorem State.setPc_readByte (s : State) (t : Word) (k : Nat) : (s.setPc t).readByte k = s.readByte k := rfl
@[simp] theorem State.setI_readByte (s : State) (t : Word) (k : Nat) : (s.setI t).readByte k = s.readByte k := rfl
@[simp] theorem State.setDT_readByte (s : State) (b : Byte) (k : Nat) : (s.setDT b).readByte k = s.readByte k := rfl
@[simp] theorem State.setST_readByte (s : State) (b : Byte) (k : Nat) : (s.setST b).readByte k = s.readByte k := rfl
@[simp] theorem State.setStack_readByte (s : State) (l : List Word) (k : Nat) : (s.setStack l).readByte k = s.readByte k := rfl
@[simp] theorem State.setFb_readByte (s : State) (f : FrameBuffer) (k : Nat) : (s.setFb f).readByte k = s.readByte k := rfl
@[simp] theorem State.setEnv_readByte (s : State) (e : Env) (k : Nat) : (s.setEnv e).readByte k = s.readByte k := rfl
@[simp] theorem State.waitKey_readByte (s : State) (x : RegIdx) (k : Nat) : (s.waitKey x).readByte k = s.readByte k := rfl
@[simp] theorem State.endWait_readByte (s : State) (k : Nat) : (s.endWait).readByte k = s.readByte k := rfl
@[simp] theorem State.raise_readByte (s : State) (e : ErrorCause) (w a : Word) (k : Nat) : (s.raise e w a).readByte k = s.readByte k := rfl
@[simp] theorem State.setMem_readByte (s : State) (m : Memory) (k : Nat) :
    (s.setMem m).readByte k = Memory.read m k := rfl

/-- What `skipIf` does: only `pc` changes, by two when the condition holds. -/
@[simp] theorem State.skipIf_eq (s : State) (c : Bool) :
    s.skipIf c = s.setPc (if c then s.pc + 2#16 else s.pc) := rfl

/-- What a query of `KEYS` does: only the environment's fields change. -/
@[simp] theorem State.sampleKeys_eq (s : State) :
    s.sampleKeys = (s.env.nextKeys.1, s.setEnv s.env.nextKeys.2) := rfl

/-- What consuming a random byte does: only the environment's fields change. -/
@[simp] theorem State.drawRnd_eq (s : State) : s.drawRnd = (s.env.nextRnd.1, s.setEnv s.env.nextRnd.2) := rfl

/-- A query of `KEYS` leaves the schedule and the random bytes, and sees the next supplied level or the next free one. -/
theorem Env.nextKeys_frame (e : Env) : e.nextKeys.2.schedule = e.schedule ∧ e.nextKeys.2.rndFeed = e.rndFeed ∧
    e.nextKeys.2.rndDrawn = e.rndDrawn := by
  unfold Env.nextKeys
  split <;> exact ⟨rfl, rfl, rfl⟩

theorem Env.nextKeys_supplied {e : Env} {k : BitVec 16} {ks : List (BitVec 16)} (h : e.keysFeed = k :: ks) :
    e.nextKeys = (k, { e with keysFeed := ks }) := by
  simp [Env.nextKeys, h]

theorem Env.nextKeys_free {e : Env} (h : e.keysFeed = []) :
    e.nextKeys = (Config.freeKeys e.keysDrawn, { e with keysDrawn := e.keysDrawn + 1 }) := by
  simp [Env.nextKeys, h]

/-- Consuming a random byte leaves the schedule and the key levels. -/
theorem Env.nextRnd_frame (e : Env) : e.nextRnd.2.schedule = e.schedule ∧ e.nextRnd.2.keysFeed = e.keysFeed ∧
    e.nextRnd.2.keysDrawn = e.keysDrawn := by
  unfold Env.nextRnd
  split <;> exact ⟨rfl, rfl, rfl⟩

theorem Env.nextRnd_supplied {e : Env} {b : Byte} {bs : List Byte} (h : e.rndFeed = b :: bs) :
    e.nextRnd = (b, { e with rndFeed := bs }) := by
  simp [Env.nextRnd, h]

theorem Env.nextRnd_free {e : Env} (h : e.rndFeed = []) :
    e.nextRnd = (Config.freeRnd e.rndDrawn, { e with rndDrawn := e.rndDrawn + 1 }) := by
  simp [Env.nextRnd, h]

/-- What writing a flag and a result leaves in the registers: the result in x, the flag in VF unless x is VF, every other
register as before (R9, R22). -/
theorem State.setFlagged_reg (s : State) (x r : RegIdx) (flag result : Byte) :
    (s.setFlagged x flag result).reg r = if r = x then result else if r = vf then flag else s.reg r := by
  simp [State.setFlagged, State.reg_setReg]

@[simp] theorem State.setFlagged_ireg (s : State) (x : RegIdx) (a b : Byte) : (s.setFlagged x a b).ireg = s.ireg := rfl
@[simp] theorem State.setFlagged_pc (s : State) (x : RegIdx) (a b : Byte) : (s.setFlagged x a b).pc = s.pc := rfl
@[simp] theorem State.setFlagged_dt (s : State) (x : RegIdx) (a b : Byte) : (s.setFlagged x a b).dt = s.dt := rfl
@[simp] theorem State.setFlagged_st (s : State) (x : RegIdx) (a b : Byte) : (s.setFlagged x a b).st = s.st := rfl
@[simp] theorem State.setFlagged_stack (s : State) (x : RegIdx) (a b : Byte) : (s.setFlagged x a b).stack = s.stack := rfl
@[simp] theorem State.setFlagged_paused (s : State) (x : RegIdx) (a b : Byte) : (s.setFlagged x a b).paused = s.paused := rfl
@[simp] theorem State.setFlagged_kwait (s : State) (x : RegIdx) (a b : Byte) : (s.setFlagged x a b).kwait = s.kwait := rfl
@[simp] theorem State.setFlagged_halted (s : State) (x : RegIdx) (a b : Byte) : (s.setFlagged x a b).halted = s.halted := rfl
@[simp] theorem State.setFlagged_err (s : State) (x : RegIdx) (a b : Byte) : (s.setFlagged x a b).err = s.err := rfl
@[simp] theorem State.setFlagged_tone (s : State) (x : RegIdx) (a b : Byte) : (s.setFlagged x a b).tone = s.tone := rfl
@[simp] theorem State.setFlagged_mem (s : State) (x : RegIdx) (a b : Byte) : (s.setFlagged x a b).mem = s.mem := rfl
@[simp] theorem State.setFlagged_fb (s : State) (x : RegIdx) (a b : Byte) : (s.setFlagged x a b).fb = s.fb := rfl
@[simp] theorem State.setFlagged_env (s : State) (x : RegIdx) (a b : Byte) : (s.setFlagged x a b).env = s.env := rfl
@[simp] theorem State.setFlagged_readByte (s : State) (x : RegIdx) (a b : Byte) (k : Nat) :
    (s.setFlagged x a b).readByte k = s.readByte k := rfl

end Sys2Proof.Machine
end

