-- ==== Sys2Proof/Laws/Memory.lean ====
section
/-!
SUPPORT. What memory's operations do: a read after a write, the canonical form kept by every operation, what the block
operations read and store, and that two canonical memories with the same contents are the same list.
-/

namespace Sys2Proof.Machine

open Sys2Proof

/-! ### The canonical form and lookup -/

/-- A canonical memory from `lo` up, taken apart at its first entry. -/
theorem Memory.wfFrom_cons {lo a : Nat} {b : Byte} {m : Memory} :
    Memory.wfFrom lo ((a, b) :: m) = true ↔
      lo ≤ a ∧ a < Config.memSize ∧ Memory.unlisted a ≠ some b ∧ Memory.wfFrom (a + 1) m = true := by
  simp [Memory.wfFrom, and_assoc]

theorem Memory.wfFrom_mono {lo lo' : Nat} (h : lo' ≤ lo) {m : Memory} (hm : Memory.wfFrom lo m = true) :
    Memory.wfFrom lo' m = true := by
  cases m with
  | nil => rfl
  | cons c m =>
    obtain ⟨a, b⟩ := c
    rw [Memory.wfFrom_cons] at hm ⊢
    exact ⟨by omega, hm.2⟩

/-- Below its lower bound a canonical memory lists nothing. -/
theorem Memory.lookup_below {lo a : Nat} {m : Memory} (hm : Memory.wfFrom lo m = true) (h : a < lo) :
    Memory.lookup m a = none := by
  induction m generalizing lo with
  | nil => rfl
  | cons c m ih =>
    obtain ⟨k, b⟩ := c
    rw [Memory.wfFrom_cons] at hm
    rw [Memory.lookup, if_neg (by omega)]
    exact ih hm.2.2.2 (by omega)

/-- No entry of a canonical memory equals what the unlisted cell holds. -/
theorem Memory.lookup_ne_unlisted {lo a : Nat} {b : Byte} {m : Memory} (hm : Memory.wfFrom lo m = true)
    (h : Memory.lookup m a = some b) : Memory.unlisted a ≠ some b := by
  induction m generalizing lo with
  | nil => simp [Memory.lookup] at h
  | cons c m ih =>
    obtain ⟨k, b'⟩ := c
    rw [Memory.wfFrom_cons] at hm
    rw [Memory.lookup] at h
    split at h
    · next e => subst e; cases h; exact hm.2.2.1
    · exact ih hm.2.2.2 h

/-! ### One write -/

theorem Memory.lookup_insert (m : Memory) (a k : Nat) (b : Byte) :
    Memory.lookup (Memory.insert m a b) k = if k = a then some b else Memory.lookup m k := by
  induction m with
  | nil => simp [Memory.insert, Memory.lookup, eq_comm]
  | cons c m ih =>
    obtain ⟨j, d⟩ := c
    rw [Memory.insert]
    split
    · simp [Memory.lookup, eq_comm]
    · split
      · next e => subst e; simp only [Memory.lookup, eq_comm]; split <;> simp_all
      · simp only [Memory.lookup, ih]
        split <;> split <;> simp_all

theorem Memory.lookup_erase (m : Memory) (a k : Nat) :
    Memory.lookup (Memory.erase m a) k = if k = a then none else Memory.lookup m k := by
  induction m with
  | nil => simp [Memory.erase, Memory.lookup]
  | cons c m ih =>
    obtain ⟨j, d⟩ := c
    rw [Memory.erase]
    split
    · next e =>
      subst e
      by_cases hk : k = j
      · rw [ih]; simp [hk]
      · simp [ih, Memory.lookup, hk, Ne.symm hk]
    · simp only [Memory.lookup, ih]
      split <;> split <;> simp_all

/-- What a write does to the contents: the written cell holds the byte, every other cell is as before. -/
theorem Memory.content_write (m : Memory) (a k : Nat) (b : Byte) :
    Memory.content (Memory.write m a b) k = if k = a then some b else Memory.content m k := by
  by_cases h : Memory.unlisted a = some b
  · by_cases hk : k = a
    · subst hk; simp [Memory.content, Memory.write, h, Memory.lookup_erase]
    · simp [Memory.content, Memory.write, h, Memory.lookup_erase, hk]
  · by_cases hk : k = a <;> simp [Memory.content, Memory.write, h, Memory.lookup_insert, hk]

/-- A read after a write. -/
theorem Memory.read_write (m : Memory) (a k : Nat) (b : Byte) :
    Memory.read (Memory.write m a b) k = if k = a then b else Memory.read m k := by
  unfold Memory.read
  rw [Memory.content_write]
  split <;> simp

theorem Memory.wfFrom_insert {m : Memory} {lo a : Nat} {b : Byte} (hm : Memory.wfFrom lo m = true) (hlo : lo ≤ a)
    (ha : a < Config.memSize) (hb : Memory.unlisted a ≠ some b) : Memory.wfFrom lo (Memory.insert m a b) = true := by
  induction m generalizing lo with
  | nil => rw [Memory.insert, Memory.wfFrom_cons]; exact ⟨hlo, ha, hb, rfl⟩
  | cons c m ih =>
    obtain ⟨k, d⟩ := c
    have hc := Memory.wfFrom_cons.mp hm
    rw [Memory.insert]
    split
    · next h => rw [Memory.wfFrom_cons]; exact ⟨hlo, ha, hb, Memory.wfFrom_cons.mpr ⟨by omega, hc.2⟩⟩
    · split
      · next h => subst h; rw [Memory.wfFrom_cons]; exact ⟨hlo, ha, hb, hc.2.2.2⟩
      · rw [Memory.wfFrom_cons]; exact ⟨hc.1, hc.2.1, hc.2.2.1, ih hc.2.2.2 (by omega)⟩

theorem Memory.wfFrom_erase {m : Memory} {lo : Nat} (a : Nat) (hm : Memory.wfFrom lo m = true) :
    Memory.wfFrom lo (Memory.erase m a) = true := by
  induction m generalizing lo with
  | nil => rfl
  | cons c m ih =>
    obtain ⟨k, d⟩ := c
    rw [Memory.wfFrom_cons] at hm
    rw [Memory.erase]
    split
    · exact Memory.wfFrom_mono (by omega) (ih hm.2.2.2)
    · rw [Memory.wfFrom_cons]; exact ⟨hm.1, hm.2.1, hm.2.2.1, ih hm.2.2.2⟩

/-- A write inside the address space keeps the canonical form. -/
theorem Memory.wf_write {m : Memory} (hm : Memory.wf m = true) {a : Nat} (ha : a < Config.memSize) (b : Byte) :
    Memory.wf (Memory.write m a b) = true := by
  unfold Memory.write
  split
  · exact Memory.wfFrom_erase a hm
  · next h => exact Memory.wfFrom_insert hm (Nat.zero_le a) ha h

/-! ### Blocks -/

@[simp] theorem Memory.length_readFrom (m : Memory) (a n : Nat) : (Memory.readFrom m a n).length = n := by
  induction n generalizing a with
  | zero => rfl
  | succ n ih => simp [Memory.readFrom, ih]

/-- What a block read gives: byte i is the one at `a + i`. -/
theorem Memory.getElem?_readFrom (m : Memory) (a n i : Nat) :
    (Memory.readFrom m a n)[i]? = if i < n then some (Memory.read m (a + i)) else none := by
  induction n generalizing a i with
  | zero => simp [Memory.readFrom]
  | succ n ih =>
    cases i with
    | zero => simp [Memory.readFrom]
    | succ i =>
      simp only [Memory.readFrom, List.getElem?_cons_succ, ih, Nat.succ_lt_succ_iff]
      simp [Nat.add_assoc, Nat.add_comm 1 i]

/-- A block stored inside the address space keeps the canonical form. -/
theorem Memory.wf_writeFrom {m : Memory} (hm : Memory.wf m = true) {a : Nat} {bs : List Byte}
    (h : a + bs.length ≤ Config.memSize) : Memory.wf (Memory.writeFrom m a bs) = true := by
  induction bs generalizing m a with
  | nil => exact hm
  | cons b bs ih =>
    simp only [List.length_cons] at h
    exact ih (Memory.wf_write hm (by omega) b) (by omega)

/-- A read after a block store: the stored byte inside the block, the old byte outside. -/
theorem Memory.read_writeFrom (m : Memory) (a : Nat) (bs : List Byte) (k : Nat) :
    Memory.read (Memory.writeFrom m a bs) k =
      if a ≤ k ∧ k < a + bs.length then bs.getD (k - a) 0#8 else Memory.read m k := by
  induction bs generalizing m a with
  | nil => rw [Memory.writeFrom, if_neg (by simp)]
  | cons b bs ih =>
    simp only [List.length_cons]
    rw [Memory.writeFrom, ih, Memory.read_write]
    by_cases hk : k = a
    · subst hk; rw [if_neg (by omega), if_pos (by omega)]; simp
    · by_cases hin : a + 1 ≤ k ∧ k < a + 1 + bs.length
      · rw [if_pos hin, if_pos (by omega), show k - a = (k - (a + 1)) + 1 by omega]; simp
      · rw [if_neg hin, if_neg hk, if_neg (by omega)]

/-! ### The state's block operations -/

theorem blockInRange_iff (base n : Nat) : blockInRange base n = true ↔ n = 0 ∨ base + n ≤ Config.memSize := by
  simp [blockInRange]

theorem State.readBlock_some (s : State) {base n : Nat} (h : n = 0 ∨ base + n ≤ Config.memSize) :
    s.readBlock base n = some (Memory.readFrom s.mem base n) := by
  rw [State.readBlock, if_pos ((blockInRange_iff base n).mpr h)]

theorem State.readBlock_none (s : State) {base n : Nat} (h : ¬ (n = 0 ∨ base + n ≤ Config.memSize)) :
    s.readBlock base n = none := by
  rw [State.readBlock, if_neg (fun c => h ((blockInRange_iff base n).mp c))]

theorem State.writeBlock_some (s : State) {base : Nat} {bs : List Byte}
    (h : bs.length = 0 ∨ base + bs.length ≤ Config.memSize) :
    s.writeBlock base bs = some (s.setMem (Memory.writeFrom s.mem base bs)) := by
  rw [State.writeBlock, if_pos ((blockInRange_iff _ _).mpr h)]

theorem State.writeBlock_none (s : State) {base : Nat} {bs : List Byte}
    (h : ¬ (bs.length = 0 ∨ base + bs.length ≤ Config.memSize)) : s.writeBlock base bs = none := by
  rw [State.writeBlock, if_neg (fun c => h ((blockInRange_iff _ _).mp c))]

@[simp] theorem State.length_regsUpTo (s : State) (x : RegIdx) : (s.regsUpTo x).length = x.toNat + 1 := by
  simp [State.regsUpTo]

@[simp] theorem length_decimalDigits (a : Byte) : (decimalDigits a).length = 3 := rfl

/-- The registers as a block: byte k is `V[k]`. -/
theorem State.getD_regsUpTo (s : State) (x : RegIdx) {k : Nat} (h : k ≤ x.toNat) :
    (s.regsUpTo x).getD k 0#8 = s.reg (BitVec.ofNat 4 k) := by
  simp [State.regsUpTo, List.getD_eq_getElem?_getD, Nat.lt_succ_of_le h]

/-- What loading registers changes: only `v`. -/
theorem State.loadFrom_eq (s : State) (k : Nat) (bs : List Byte) :
    s.loadFrom k bs = { s with v := (s.loadFrom k bs).v } := by
  induction bs generalizing s k with
  | nil => rfl
  | cons b bs ih => rw [State.loadFrom]; rw [ih]; rfl

/-- The registers after a load from index k up: the loaded byte inside, the old value outside. -/
theorem State.loadFrom_reg (s : State) (k : Nat) (bs : List Byte) (h : k + bs.length ≤ 16) (r : RegIdx) :
    (s.loadFrom k bs).reg r =
      if k ≤ r.toNat ∧ r.toNat < k + bs.length then bs.getD (r.toNat - k) 0#8 else s.reg r := by
  induction bs generalizing s k with
  | nil => rw [State.loadFrom, if_neg (by simp)]
  | cons b bs ih =>
    simp only [List.length_cons] at h ⊢
    rw [State.loadFrom, ih _ _ (by omega), State.reg_setReg]
    have hk : (BitVec.ofNat 4 k).toNat = k := by simp; omega
    by_cases e : r = BitVec.ofNat 4 k
    · subst e; rw [hk, if_neg (by omega), if_pos rfl, if_pos (by omega)]; simp
    · have ne : r.toNat ≠ k := fun c => e (BitVec.eq_of_toNat_eq (by rw [hk, c]))
      by_cases hin : k + 1 ≤ r.toNat ∧ r.toNat < k + 1 + bs.length
      · rw [if_pos hin, if_pos (by omega), show r.toNat - k = (r.toNat - (k + 1)) + 1 by omega]; simp
      · rw [if_neg hin, if_neg e, if_neg (by omega)]

end Sys2Proof.Machine
end

