-- ==== Sys2Proof/Laws/Screen.lean ====
section
/-!
SUPPORT. What the frame buffer's operations and the sprite blit do to one pixel, and when they report an erase
(spec/45_draw.md R165 to R170).
-/

namespace Sys2Proof.Machine

open Sys2Proof

/-- The two pixels named by these coordinates are the same one, after wrapping (R165). -/
def SamePixel (x y px py : Nat) : Prop := px % 64 = x % 64 ∧ py % 32 = y % 32

theorem FrameBuffer.pixel_congr (f : FrameBuffer) {x y px py : Nat} (h : SamePixel x y px py) :
    f.pixel px py = f.pixel x y := by
  simp only [FrameBuffer.pixel, h.1, h.2]

@[simp] theorem FrameBuffer.pixel_clear (x y : Nat) : FrameBuffer.clear.pixel x y = false := by
  simp [FrameBuffer.pixel, FrameBuffer.clear]

@[simp] theorem FrameBuffer.toggle_erased (f : FrameBuffer) (x y : Nat) : (f.toggle x y).2 = f.pixel x y := rfl

/-- A toggle inverts its own pixel. -/
theorem FrameBuffer.toggle_same (f : FrameBuffer) {x y px py : Nat} (h : SamePixel x y px py) :
    (f.toggle x y).1.pixel px py = !f.pixel px py := by
  have hx : x % 64 < 64 := Nat.mod_lt x (by decide)
  simp [FrameBuffer.pixel, FrameBuffer.toggle, h.1, h.2, hx]

/-- A toggle leaves every other pixel. -/
theorem FrameBuffer.toggle_other (f : FrameBuffer) {x y px py : Nat} (h : ¬ SamePixel x y px py) :
    (f.toggle x y).1.pixel px py = f.pixel px py := by
  have hx : px % 64 < 64 := Nat.mod_lt px (by decide)
  by_cases hy : py % 32 = y % 32
  · have hne : px % 64 ≠ x % 64 := fun e => h ⟨e, hy⟩
    simp only [FrameBuffer.pixel, FrameBuffer.toggle, hy, Vector.getElem_set_self, BitVec.getLsbD_xor]
    have hbit : (1#64 <<< (x % 64)).getLsbD (px % 64) = false := by
      rw [BitVec.getLsbD_shiftLeft, Bool.and_eq_false_imp]
      intro hlt
      have : px % 64 - x % 64 ≠ 0 := by
        simp only [Bool.and_eq_true, Bool.not_eq_true', decide_eq_false_iff_not] at hlt
        omega
      simp [this]
    rw [hbit, Bool.xor_false]
  · simp [FrameBuffer.pixel, FrameBuffer.toggle, Ne.symm hy]

/-- Two frame buffers with the same 64 × 32 pixels are equal. -/
theorem FrameBuffer.ext_pixel {f g : FrameBuffer} (h : ∀ x y, x < 64 → y < 32 → f.pixel x y = g.pixel x y) : f = g := by
  apply Vector.ext
  intro y hy
  apply BitVec.eq_of_getLsbD_eq
  intro x hx
  have := h x y hx hy
  simpa [FrameBuffer.pixel, Nat.mod_eq_of_lt hx, Nat.mod_eq_of_lt hy] using this

/-! ### One row of a sprite -/

/-- Some column of `cs` with a set bit of the row's byte lies on the pixel. -/
def RowHits (x0 y : Nat) (row : Byte) (cs : List Nat) (px py : Nat) : Prop :=
  ∃ c ∈ cs, row.getLsbD (7 - c) = true ∧ SamePixel (x0 + c) y px py

/-- Columns that are distinct and below 8 name distinct pixels (R170 c). -/
theorem RowHits.head_tail {x0 y px py c : Nat} {row : Byte} {cs : List Nat} (hc : c ∉ cs) (hlt : ∀ d ∈ c :: cs, d < 8)
    (h : SamePixel (x0 + c) y px py) : ¬ RowHits x0 y row cs px py := by
  rintro ⟨d, hd, -, hs⟩
  have hc8 : c < 8 := hlt c (by simp)
  have hd8 : d < 8 := hlt d (by simp [hd])
  have : (x0 + c) % 64 = (x0 + d) % 64 := h.1.symm.trans hs.1
  have : c = d := by omega
  exact hc (this ▸ hd)

/-- What the columns of a row do: exactly the pixels they hit are inverted. -/
theorem drawCols_pixel (x0 y : Nat) (row : Byte) (f : FrameBuffer) (cs : List Nat) (hn : cs.Nodup)
    (hlt : ∀ c ∈ cs, c < 8) (px py : Nat) :
    (RowHits x0 y row cs px py → (drawCols x0 y row f cs).1.pixel px py = !f.pixel px py) ∧
      (¬ RowHits x0 y row cs px py → (drawCols x0 y row f cs).1.pixel px py = f.pixel px py) := by
  induction cs generalizing f with
  | nil => exact ⟨fun ⟨c, hc, _⟩ => absurd hc List.not_mem_nil, fun _ => rfl⟩
  | cons c cs ih =>
    obtain ⟨hc, hn'⟩ := List.nodup_cons.mp hn
    have hlt' : ∀ d ∈ cs, d < 8 := fun d hd => hlt d (List.mem_cons_of_mem c hd)
    rw [drawCols]
    split
    · next hb =>
      obtain ⟨ih1, ih2⟩ := ih (f.toggle (x0 + c) y).1 hn' hlt'
      by_cases hs : SamePixel (x0 + c) y px py
      · have hno := RowHits.head_tail (row := row) hc hlt hs
        refine ⟨fun _ => ?_, fun h => absurd ⟨c, by simp, hb, hs⟩ h⟩
        rw [show _ = _ from ih2 hno, FrameBuffer.toggle_same f hs]
      · refine ⟨fun h => ?_, fun h => ?_⟩
        · obtain ⟨d, hd, hdb, hds⟩ := h
          have hd' : d ∈ cs := by
            rcases List.mem_cons.mp hd with rfl | h'
            · exact absurd hds hs
            · exact h'
          rw [show _ = _ from ih1 ⟨d, hd', hdb, hds⟩, FrameBuffer.toggle_other f hs]
        · have hno : ¬ RowHits x0 y row cs px py := fun ⟨d, hd, r⟩ => h ⟨d, List.mem_cons_of_mem c hd, r⟩
          rw [show _ = _ from ih2 hno, FrameBuffer.toggle_other f hs]
    · next hb =>
      obtain ⟨ih1, ih2⟩ := ih f hn' hlt'
      refine ⟨fun h => ih1 ?_, fun h => ih2 fun ⟨d, hd, r⟩ => h ⟨d, List.mem_cons_of_mem c hd, r⟩⟩
      obtain ⟨d, hd, hdb, hds⟩ := h
      rcases List.mem_cons.mp hd with rfl | h'
      · exact absurd hdb hb
      · exact ⟨d, h', hdb, hds⟩

/-- When the columns of a row report an erase: some pixel they hit was lit before the row. -/
theorem drawCols_erased (x0 y : Nat) (row : Byte) (f : FrameBuffer) (cs : List Nat) (hn : cs.Nodup)
    (hlt : ∀ c ∈ cs, c < 8) :
    (drawCols x0 y row f cs).2 = true ↔
      ∃ c ∈ cs, row.getLsbD (7 - c) = true ∧ f.pixel (x0 + c) y = true := by
  induction cs generalizing f with
  | nil => simp [drawCols]
  | cons c cs ih =>
    obtain ⟨hc, hn'⟩ := List.nodup_cons.mp hn
    have hlt' : ∀ d ∈ cs, d < 8 := fun d hd => hlt d (List.mem_cons_of_mem c hd)
    rw [drawCols]
    split
    · next hb =>
      have same : ∀ d ∈ cs, (f.toggle (x0 + c) y).1.pixel (x0 + d) y = f.pixel (x0 + d) y := by
        intro d hd
        refine FrameBuffer.toggle_other f fun hs => ?_
        have h1 := hlt c (by simp)
        have h2 := hlt' d hd
        have h3 : (x0 + d) % 64 = (x0 + c) % 64 := hs.1
        have : c = d := by omega
        exact hc (this ▸ hd)
      simp only [Bool.or_eq_true, FrameBuffer.toggle_erased, ih _ hn' hlt', List.mem_cons, exists_eq_or_imp, hb, true_and]
      exact or_congr Iff.rfl ⟨fun ⟨d, hd, h1, h2⟩ => ⟨d, hd, h1, same d hd ▸ h2⟩,
        fun ⟨d, hd, h1, h2⟩ => ⟨d, hd, h1, (same d hd).symm ▸ h2⟩⟩
    · next hb =>
      simp [ih f hn' hlt', hb]

/-- The eight columns of a sprite row. -/
theorem columns_mem (c : Nat) : c ∈ [0, 1, 2, 3, 4, 5, 6, 7] ↔ c < 8 := by
  simp; omega

/-! ### The whole sprite -/

/-- Some set bit of the sprite's rows lies on the pixel. -/
def SpriteHits (x0 y0 : Nat) (rows : List Byte) (px py : Nat) : Prop :=
  ∃ r c : Nat, ∃ row : Byte, rows[r]? = some row ∧ c < 8 ∧ row.getLsbD (7 - c) = true ∧
    SamePixel (x0 + c) (y0 + r) px py

theorem SpriteHits.cons {x0 y0 px py : Nat} {row : Byte} {rows : List Byte} :
    SpriteHits x0 y0 (row :: rows) px py ↔
      RowHits x0 y0 row [0, 1, 2, 3, 4, 5, 6, 7] px py ∨ SpriteHits x0 (y0 + 1) rows px py := by
  constructor
  · rintro ⟨r, c, b, hr, hc, hb, hs⟩
    cases r with
    | zero => simp only [List.getElem?_cons_zero, Option.some.injEq] at hr; subst hr
              exact .inl ⟨c, (columns_mem c).mpr hc, hb, hs⟩
    | succ r => exact .inr ⟨r, c, b, by simpa using hr, hc, hb, by simpa [Nat.add_assoc, Nat.add_comm 1 r] using hs⟩
  · rintro (⟨c, hc, hb, hs⟩ | ⟨r, c, b, hr, hc, hb, hs⟩)
    · exact ⟨0, c, row, rfl, (columns_mem c).mp hc, hb, hs⟩
    · exact ⟨r + 1, c, b, by simpa using hr, hc, hb, by simpa [Nat.add_assoc, Nat.add_comm 1 r] using hs⟩

/-- Rows below the first, fewer than 32 in all, lie on other pixel rows (R170 c). -/
theorem SpriteHits.row_ne {x0 y0 px py : Nat} {rows : List Byte} (hlen : rows.length < 32)
    (hp : py % 32 = y0 % 32) : ¬ SpriteHits x0 (y0 + 1) rows px py := by
  rintro ⟨r, c, b, hr, -, -, hs⟩
  have hr' : r < rows.length := (List.getElem?_eq_some_iff.mp hr).1
  have : py % 32 = (y0 + 1 + r) % 32 := hs.2
  omega

theorem RowHits.row {x0 y px py : Nat} {row : Byte} {cs : List Nat} (h : RowHits x0 y row cs px py) :
    py % 32 = y % 32 := by
  obtain ⟨c, -, -, hs⟩ := h
  exact hs.2

/-- What a sprite of at most 32 rows does: exactly the pixels that its set bits lie on are inverted (R167, R170). -/
theorem drawSprite_pixel (f : FrameBuffer) (x0 y0 : Nat) (rows : List Byte) (hlen : rows.length ≤ 32) (px py : Nat) :
    (SpriteHits x0 y0 rows px py → (drawSprite f x0 y0 rows).1.pixel px py = !f.pixel px py) ∧
      (¬ SpriteHits x0 y0 rows px py → (drawSprite f x0 y0 rows).1.pixel px py = f.pixel px py) := by
  induction rows generalizing f y0 with
  | nil => exact ⟨fun ⟨r, c, b, hr, _⟩ => by simp at hr, fun _ => rfl⟩
  | cons row rows ih =>
    simp only [List.length_cons] at hlen
    obtain ⟨ih1, ih2⟩ := ih (drawRow f x0 y0 row).1 (y0 + 1) (by omega)
    obtain ⟨c1, c2⟩ := drawCols_pixel x0 y0 row f [0, 1, 2, 3, 4, 5, 6, 7] (by decide)
      (fun c hc => (columns_mem c).mp hc) px py
    rw [SpriteHits.cons, drawSprite]
    by_cases hrow : RowHits x0 y0 row [0, 1, 2, 3, 4, 5, 6, 7] px py
    · have hno := SpriteHits.row_ne (x0 := x0) (px := px) (rows := rows) (by omega) hrow.row
      exact ⟨fun _ => (ih2 hno).trans (c1 hrow), fun h => absurd (.inl hrow) h⟩
    · exact ⟨fun h => (ih1 (h.resolve_left hrow)).trans (by rw [drawRow, c2 hrow]),
        fun h => (ih2 fun c => h (.inr c)).trans (c2 hrow)⟩

/-- When a sprite of at most 32 rows reports an erase: some pixel that a set bit lies on was lit before the draw
(R167, R170 c). -/
theorem drawSprite_erased (f : FrameBuffer) (x0 y0 : Nat) (rows : List Byte) (hlen : rows.length ≤ 32) :
    (drawSprite f x0 y0 rows).2 = true ↔ ∃ px py, SpriteHits x0 y0 rows px py ∧ f.pixel px py = true := by
  induction rows generalizing f y0 with
  | nil => simp [drawSprite, SpriteHits]
  | cons row rows ih =>
    simp only [List.length_cons] at hlen
    have below : ∀ px py, SpriteHits x0 (y0 + 1) rows px py → (drawRow f x0 y0 row).1.pixel px py = f.pixel px py := by
      intro px py h
      refine (drawCols_pixel x0 y0 row f _ (by decide) (fun c hc => (columns_mem c).mp hc) px py).2 fun hr => ?_
      exact SpriteHits.row_ne (by omega) hr.row h
    rw [drawSprite]
    simp only [Bool.or_eq_true, ih _ _ (show rows.length ≤ 32 by omega), SpriteHits.cons]
    rw [drawRow, drawCols_erased x0 y0 row f _ (by decide) (fun c hc => (columns_mem c).mp hc)]
    constructor
    · rintro (⟨c, hc, hb, hp⟩ | ⟨px, py, hs, hp⟩)
      · exact ⟨x0 + c, y0, .inl ⟨c, hc, hb, rfl, rfl⟩, hp⟩
      · exact ⟨px, py, .inr hs, below px py hs ▸ hp⟩
    · rintro ⟨px, py, ⟨c, hc, hb, hs⟩ | hs, hp⟩
      · exact .inl ⟨c, hc, hb, (f.pixel_congr hs).symm.trans hp⟩
      · exact .inr ⟨px, py, hs, (below px py hs).trans hp⟩

end Sys2Proof.Machine
end

