-- ==== Sys2Proof/Laws/Engine.lean ====
section
/-!
SUPPORT. What the stack operations, the fatal error, the step and the events do, each said once.
-/

namespace Sys2Proof.Machine

open Sys2Proof

/-! ### The call stack (R30, R31) -/

theorem State.push_some (s : State) (t : Word) (h : s.stack.length < Config.stackDepth) :
    s.push t = some (s.setStack (s.stack ++ [t])) := by
  rw [State.push, State.sp, if_pos h]

theorem State.push_none (s : State) (t : Word) (h : ¬ s.stack.length < Config.stackDepth) : s.push t = none := by
  rw [State.push, State.sp, if_neg h]

theorem State.pop_concat (s : State) {l : List Word} {t : Word} (h : s.stack = l ++ [t]) :
    s.pop = some (t, s.setStack l) := by
  simp [State.pop, h]

theorem State.pop_nil (s : State) (h : s.stack = []) : s.pop = none := by
  simp [State.pop, h]

/-- What a fatal error leaves (R236, R237). -/
theorem State.raise_raised (s : State) (e : ErrorCause) (w a : Word) : Raised s (s.raise e w a) ⟨e.code, w, a⟩ :=
  ⟨rfl, rfl, fun _ _ => rfl, rfl, ⟨rfl, rfl, rfl⟩, rfl, rfl, rfl, rfl, fun _ => rfl, rfl⟩

/-! ### Step (R200) -/

@[simp] theorem State.setEnv_fetchWord (s : State) (e : Env) : (s.setEnv e).fetchWord = s.fetchWord := rfl

/-- The fetched word, high byte first (R53), when both bytes are in range (R57). -/
theorem State.fetchWord_some (s : State) (h : s.pc.toNat ≤ 0x0FFE) :
    s.fetchWord = some (wordOfBytes (s.readByte s.pc.toNat) (s.readByte (s.pc.toNat + 1))) := by
  rw [State.fetchWord, s.readBlock_some (.inr (by simp only [Config.memSize]; omega))]
  rfl

theorem State.fetchWord_none (s : State) (h : 0x0FFE < s.pc.toNat) : s.fetchWord = none := by
  rw [State.fetchWord, s.readBlock_none (by simp only [Config.memSize]; omega)]

theorem engineStep_halted {s : State} (h : s.halted = true) : engineStep s = .next s := by
  rw [engineStep, if_pos h]

theorem engineStep_paused {s : State} (h : s.paused = true) : engineStep s = .next s := by
  rw [engineStep, if_pos h, ite_self]

/-- A step that is not suspended and whose fetch is in range executes the fetched word with `pc` advanced (R200, R201). -/
theorem engineStep_fetch {s : State} (hh : s.halted = false) (hp : s.paused = false) {w : Word}
    (hw : s.fetchWord = some w) : engineStep s = executeWord w (s.setPc (s.pc + 2#16)) := by
  rw [engineStep, if_neg (by simp [hh]), if_neg (by simp [hp])]
  simp [hw]

/-- A step whose fetch is out of range raises `AddressError` with word 0, `pc` unchanged (R200, R231). -/
theorem engineStep_fetchError {s : State} (hh : s.halted = false) (hp : s.paused = false)
    (hw : s.fetchWord = none) : engineStep s = .next (s.raise .addressError 0x0000#16 s.pc) := by
  rw [engineStep, if_neg (by simp [hh]), if_neg (by simp [hp])]
  simp [hw]

theorem executeWord_ok {w : Word} {i : Instr} (h : decodeWord w = .ok i) (s : State) : executeWord w s = exec i s := by
  rw [executeWord, h]

theorem executeWord_error {w : Word} {e : DecodeReject} (h : decodeWord w = .error e) (s : State) :
    executeWord w s = .next (s.raise .decodeError w s.fetchAddr) := by
  rw [executeWord, h]

/-! ### The transition and the events (R211, R215, R218) -/

theorem step_engine {s : State} (h : s.env.schedule = []) : step s = engineStep s := by
  simp [step, State.advance, h]

theorem step_event {s : State} {e : Event} {es : List Event} (h : s.env.schedule = e :: es) :
    step s = (s.setEnv { s.env with schedule := es }).onEvent e := by
  simp [step, State.advance, h]

theorem State.tick_halted {s : State} (h : s.halted = true) : s.tick = s := by
  rw [State.tick, if_pos h]

theorem State.tick_running {s : State} (h : s.halted = false) :
    s.tick = { s with dt := countDown s.dt, st := countDown s.st, tone := decide (countDown s.st ≠ 0#8) } := by
  rw [State.tick, if_neg (by simp [h])]

theorem State.keyPress_idle {s : State} (k : BitVec 4) (h : s.halted = true ∨ s.kwait = none) : s.keyPress k = s := by
  rcases h with h | h
  · rw [State.keyPress, if_pos h]
  · simp [State.keyPress, h]

theorem State.keyPress_waiting {s : State} (k : BitVec 4) {x : RegIdx} (hh : s.halted = false)
    (hx : s.kwait = some x) : s.keyPress k = (s.setReg x (k.setWidth 8)).endWait := by
  simp [State.keyPress, hh, hx]

/-- The events that can stand between `Reset` and `Load` change nothing, so `Load` may follow at once (log entry 6). -/
theorem tick_reset : State.reset.tick = State.reset := by decide

theorem keyPress_reset (k : BitVec 4) : State.reset.keyPress k = State.reset :=
  State.keyPress_idle k (.inr rfl)

/-- A count reaches at most one less, and never goes below zero (R28). -/
theorem toNat_countDown (t : Byte) : (countDown t).toNat = t.toNat - 1 := by
  unfold countDown
  split
  · next h => subst h; rfl
  · next h =>
    have : 0 < t.toNat := Nat.pos_of_ne_zero fun e => h (BitVec.eq_of_toNat_eq e)
    rw [BitVec.toNat_sub_of_le (BitVec.le_def.mpr (show (1#8).toNat ≤ t.toNat from this))]
    rfl

end Sys2Proof.Machine
end

