-- ==== Sys2Proof/Laws/Exec.lean ====
section
/-!
SUPPORT. What an instruction can do, said once: the shape of every next state that `exec` answers, with the instructions
that reach it.
-/

namespace Sys2Proof.Machine

open Sys2Proof

/-- The fatal errors an instruction can raise (R231). -/
inductive CanRaise : Instr → ErrorCause → Prop
  | call (nnn : Addr12) : CanRaise (.call nnn) .stackOverflow
  | ret : CanRaise .ret .stackUnderflow
  | drw (x y : RegIdx) (n : Nibble) : CanRaise (.drw x y n) .addressError
  | ldB (x : RegIdx) : CanRaise (.ldB x) .addressError
  | storeRegs (x : RegIdx) : CanRaise (.storeRegs x) .addressError
  | loadRegs (x : RegIdx) : CanRaise (.loadRegs x) .addressError

/-- Where a skip, a jump or an indexed jump leaves `pc`: in place, two further, or at most at 0x10FE (R134, R141, R144). -/
def NearPc (s : State) (p : Word) : Prop := p = s.pc ∨ p = s.pc + 2#16 ∨ p.toNat ≤ 0x10FE

/-- The next states that instruction `i` can reach from `s`, by the state that it writes. -/
inductive Effect : Instr → State → State → Prop
  | raised {i : Instr} (s : State) {c : ErrorCause} (h : CanRaise i c) : Effect i s (s.raise c (encode i) s.fetchAddr)
  | called (s : State) (nnn : Addr12) (h : s.stack.length < Config.stackDepth) :
      Effect (.call nnn) s ((s.setStack (s.stack ++ [s.pc])).setPc (addrOperand nnn))
  | returned (s : State) (l : List Word) (a : Word) (h : s.stack = l ++ [a]) : Effect .ret s ((s.setStack l).setPc a)
  | drawn (s : State) (x y : RegIdx) (n : Nibble) (f : FrameBuffer) (b : Byte) :
      Effect (.drw x y n) s ((s.setFb f).setReg vf b)
  | cleared (s : State) : Effect .cls s (s.setFb FrameBuffer.clear)
  | stored {i : Instr} (s : State) (bs : List Byte) (hi : (∃ x, i = .ldB x) ∨ ∃ x, i = .storeRegs x)
      (hl : bs.length = storedBytes i) (h : s.ireg.toNat + bs.length ≤ Config.memSize) :
      Effect i s (s.setMem (Memory.writeFrom s.mem s.ireg.toNat bs))
  | registers (i : Instr) (s : State) (v : Vector Byte 16) : Effect i s { s with v := v }
  | randomByte (s : State) (x : RegIdx) (nn : Byte) (b : Byte) :
      Effect (.rnd x nn) s ((s.setEnv s.env.nextRnd.2).setReg x b)
  | keySkip {i : Instr} (s : State) (p : Word) (hi : (∃ x, i = .skp x) ∨ ∃ x, i = .sknp x) (h : NearPc s p) :
      Effect i s ((s.setEnv s.env.nextKeys.2).setPc p)
  | delayTimer (s : State) (x : RegIdx) : Effect (.ldDT x) s (s.setDT (s.reg x))
  | soundTimer (s : State) (x : RegIdx) : Effect (.ldST x) s (s.setST (s.reg x))
  | waiting (s : State) (x : RegIdx) : Effect (.ldK x) s (s.waitKey x)
  | address {i : Instr} (s : State) (a : Word) (hi : (∃ nnn, i = .ldI nnn) ∨ (∃ x, i = .addI x) ∨ ∃ x, i = .ldF x) :
      Effect i s (s.setI a)
  | jumped (i : Instr) (s : State) (p : Word) (h : NearPc s p) : Effect i s (s.setPc p)

/-- A skip leaves `pc` in place or two further (R134). -/
theorem nearPc_skip (s : State) (c : Bool) : NearPc s (if c then s.pc + 2#16 else s.pc) := by
  cases c
  · exact .inl rfl
  · exact .inr (.inl rfl)

theorem nearPc_addrOperand (s : State) (nnn : Addr12) : NearPc s (addrOperand nnn) := by
  have := nnn.isLt
  exact .inr (.inr (by simp [addrOperand]; omega))

theorem nearPc_indexedTarget (s : State) (nnn : Addr12) : NearPc s (s.indexedTarget nnn) := by
  have := nnn.isLt
  have := (s.reg 0#4).isLt
  exact .inr (.inr (by simp [State.indexedTarget, addrOperand]; omega))

/-- Loading registers changes only the register file (R192). -/
theorem Effect.of_loadFrom (i : Instr) (s : State) (bs : List Byte) : Effect i s (s.loadFrom 0 bs) := by
  rw [State.loadFrom_eq]
  exact .registers i s _

/-- A store in range, or an error with nothing stored (R57). -/
theorem Effect.of_store {i : Instr} {s t : State} {bs : List Byte} (hi : (∃ x, i = .ldB x) ∨ ∃ x, i = .storeRegs x)
    (hl : bs.length = storedBytes i) (hc : CanRaise i .addressError)
    (h : (match s.writeBlock s.ireg.toNat bs with
      | some u => Host.Outcome.next u
      | none => s.raiseIn .addressError i) = .next t) : Effect i s t := by
  have hpos : bs.length ≠ 0 := by
    rcases hi with ⟨x, rfl⟩ | ⟨x, rfl⟩ <;> simp [hl, storedBytes]
  by_cases hr : s.ireg.toNat + bs.length ≤ Config.memSize
  · rw [s.writeBlock_some (.inr hr)] at h
    cases h
    exact .stored s bs hi hl hr
  · rw [s.writeBlock_none (fun c => c.elim hpos hr)] at h
    cases h
    exact .raised s hc

/-- Whatever next state an instruction answers is one of its effects. -/
theorem exec_effect (i : Instr) (s t : State) (h : exec i s = .next t) : Effect i s t := by
  cases i <;> simp only [exec] at h
  case call nnn =>
    unfold execCall at h
    by_cases hl : s.stack.length < Config.stackDepth
    · rw [State.push_some s _ hl] at h; cases h; exact .called s nnn hl
    · rw [State.push_none s _ hl] at h; cases h; exact .raised s (.call nnn)
  case ret =>
    unfold execRet at h
    rcases List.eq_nil_or_concat s.stack with hs | ⟨l, a, hs⟩
    · rw [State.pop_nil s hs] at h; cases h; exact .raised s .ret
    · rw [List.concat_eq_append] at hs
      rw [State.pop_concat s hs] at h; cases h; exact .returned s l a hs
  case drw x y n =>
    unfold execDrw at h
    split at h <;> cases h
    · exact .drawn s x y n _ _
    · exact .raised s (.drw x y n)
  case ldB x => exact .of_store (.inl ⟨x, rfl⟩) rfl (.ldB x) h
  case storeRegs x => exact .of_store (.inr ⟨x, rfl⟩) (s.length_regsUpTo x) (.storeRegs x) h
  case loadRegs x =>
    unfold execLoadRegs at h
    split at h <;> cases h
    · exact .of_loadFrom _ s _
    · exact .raised s (.loadRegs x)
  case cls => cases h; exact .cleared s
  case rnd x nn => cases h; exact .randomByte s x nn _
  case skp x => cases h; exact .keySkip s _ (.inl ⟨x, rfl⟩) (nearPc_skip s _)
  case sknp x => cases h; exact .keySkip s _ (.inr ⟨x, rfl⟩) (nearPc_skip s _)
  case ldDT x => cases h; exact .delayTimer s x
  case ldST x => cases h; exact .soundTimer s x
  case ldK x => cases h; exact .waiting s x
  case ldI nnn => cases h; exact .address s _ (.inl ⟨nnn, rfl⟩)
  case addI x => cases h; exact .address s _ (.inr (.inl ⟨x, rfl⟩))
  case ldF x => cases h; exact .address s _ (.inr (.inr ⟨x, rfl⟩))
  case jp nnn => cases h; exact .jumped _ s _ (nearPc_addrOperand s nnn)
  case jpV0 nnn => cases h; exact .jumped _ s _ (nearPc_indexedTarget s nnn)
  case seImm | sneImm | seReg | sneReg => cases h; exact .jumped _ s _ (nearPc_skip s _)
  all_goals cases h; exact .registers _ s _

end Sys2Proof.Machine
end

