-- ==== Sys2Proof/Laws/PerInstr.lean ====
section
/-!
SUPPORT. One law per instruction: its word selects the row of the opcode map that carries its mnemonic (spec/30_encoding.md
R86), whatever its fields hold.
-/

namespace Sys2Proof.Laws.EncodesInRow

open Sys2Proof

/-- The mnemonic of the row an instruction stands for. -/
def mnemonicOf : Instr → String
  | .ldReg _ _ => "LD_Vx__Vy"
  | .orReg _ _ => "OR_Vx__Vy"
  | .andReg _ _ => "AND_Vx__Vy"
  | .xorReg _ _ => "XOR_Vx__Vy"
  | .addReg _ _ => "ADD_Vx__Vy"
  | .subReg _ _ => "SUB_Vx__Vy"
  | .shr _ _ => "SHR_Vx"
  | .subn _ _ => "SUBN_Vx__Vy"
  | .shl _ _ => "SHL_Vx"
  | .seImm _ _ => "SE_Vx__byte"
  | .sneImm _ _ => "SNE_Vx__byte"
  | .seReg _ _ _ => "SE_Vx__Vy"
  | .sneReg _ _ _ => "SNE_Vx__Vy"
  | .jp _ => "JP_addr"
  | .call _ => "CALL_addr"
  | .ret => "RET"
  | .jpV0 _ => "JP_V0__addr"
  | .ldImm _ _ => "LD_Vx__byte"
  | .addImm _ _ => "ADD_Vx__byte"
  | .ldI _ => "LD_I__addr"
  | .addI _ => "ADD_I__Vx"
  | .rnd _ _ => "RND_Vx__byte"
  | .drw _ _ _ => "DRW_Vx__Vy__nibble"
  | .cls => "CLS"
  | .skp _ => "SKP_Vx"
  | .sknp _ => "SKNP_Vx"
  | .ldVxDT _ => "LD_Vx__DT"
  | .ldDT _ => "LD_DT__Vx"
  | .ldST _ => "LD_ST__Vx"
  | .ldF _ => "LD_F__Vx"
  | .ldB _ => "LD_B__Vx"
  | .storeRegs _ => "LD__I___Vx"
  | .loadRegs _ => "LD_Vx___I"
  | .ldK _ => "LD_Vx__K"

/-- The word of the instruction selects the row with its mnemonic. -/
def Statement (i : Instr) : Prop :=
  ∃ r ∈ opcodeMap, r.mnemonic = mnemonicOf i ∧ r.selects (encode i) = true

theorem of_row {i : Instr} (r : OpcodeRow) (hr : r ∈ opcodeMap) (hm : r.mnemonic = mnemonicOf i)
    (hw : encode i &&& r.mask = r.pattern) : Statement i :=
  ⟨r, hr, hm, by rw [OpcodeRow.selects, hw]; exact beq_self_eq_true _⟩

theorem ldReg (x y : RegIdx) : Statement (.ldReg x y) :=
  of_row ⟨"LD_Vx__Vy", 0xF00F#16, 0x8000#16⟩ (by decide) rfl (mask_nibbles _ _ _ _)

theorem orReg (x y : RegIdx) : Statement (.orReg x y) :=
  of_row ⟨"OR_Vx__Vy", 0xF00F#16, 0x8001#16⟩ (by decide) rfl (mask_nibbles _ _ _ _)

theorem andReg (x y : RegIdx) : Statement (.andReg x y) :=
  of_row ⟨"AND_Vx__Vy", 0xF00F#16, 0x8002#16⟩ (by decide) rfl (mask_nibbles _ _ _ _)

theorem xorReg (x y : RegIdx) : Statement (.xorReg x y) :=
  of_row ⟨"XOR_Vx__Vy", 0xF00F#16, 0x8003#16⟩ (by decide) rfl (mask_nibbles _ _ _ _)

theorem addReg (x y : RegIdx) : Statement (.addReg x y) :=
  of_row ⟨"ADD_Vx__Vy", 0xF00F#16, 0x8004#16⟩ (by decide) rfl (mask_nibbles _ _ _ _)

theorem subReg (x y : RegIdx) : Statement (.subReg x y) :=
  of_row ⟨"SUB_Vx__Vy", 0xF00F#16, 0x8005#16⟩ (by decide) rfl (mask_nibbles _ _ _ _)

theorem shr (x y : RegIdx) : Statement (.shr x y) :=
  of_row ⟨"SHR_Vx", 0xF00F#16, 0x8006#16⟩ (by decide) rfl (mask_nibbles _ _ _ _)

theorem subn (x y : RegIdx) : Statement (.subn x y) :=
  of_row ⟨"SUBN_Vx__Vy", 0xF00F#16, 0x8007#16⟩ (by decide) rfl (mask_nibbles _ _ _ _)

theorem shl (x y : RegIdx) : Statement (.shl x y) :=
  of_row ⟨"SHL_Vx", 0xF00F#16, 0x800E#16⟩ (by decide) rfl (mask_nibbles _ _ _ _)

theorem seImm (x : RegIdx) (nn : Byte) : Statement (.seImm x nn) :=
  of_row ⟨"SE_Vx__byte", 0xF000#16, 0x3000#16⟩ (by decide) rfl (mask_group_byte _ _ _)

theorem sneImm (x : RegIdx) (nn : Byte) : Statement (.sneImm x nn) :=
  of_row ⟨"SNE_Vx__byte", 0xF000#16, 0x4000#16⟩ (by decide) rfl (mask_group_byte _ _ _)

theorem seReg (x y : RegIdx) (u : Nibble) : Statement (.seReg x y u) :=
  of_row ⟨"SE_Vx__Vy", 0xF000#16, 0x5000#16⟩ (by decide) rfl (mask_group_nibbles _ _ _ _)

theorem sneReg (x y : RegIdx) (u : Nibble) : Statement (.sneReg x y u) :=
  of_row ⟨"SNE_Vx__Vy", 0xF000#16, 0x9000#16⟩ (by decide) rfl (mask_group_nibbles _ _ _ _)

theorem jp (nnn : Addr12) : Statement (.jp nnn) :=
  of_row ⟨"JP_addr", 0xF000#16, 0x1000#16⟩ (by decide) rfl (mask_group_addr _ _)

theorem call (nnn : Addr12) : Statement (.call nnn) :=
  of_row ⟨"CALL_addr", 0xF000#16, 0x2000#16⟩ (by decide) rfl (mask_group_addr _ _)

theorem ret : Statement (.ret) :=
  of_row ⟨"RET", 0xFFFF#16, 0x00EE#16⟩ (by decide) rfl (by decide)

theorem jpV0 (nnn : Addr12) : Statement (.jpV0 nnn) :=
  of_row ⟨"JP_V0__addr", 0xF000#16, 0xB000#16⟩ (by decide) rfl (mask_group_addr _ _)

theorem ldImm (x : RegIdx) (nn : Byte) : Statement (.ldImm x nn) :=
  of_row ⟨"LD_Vx__byte", 0xF000#16, 0x6000#16⟩ (by decide) rfl (mask_group_byte _ _ _)

theorem addImm (x : RegIdx) (nn : Byte) : Statement (.addImm x nn) :=
  of_row ⟨"ADD_Vx__byte", 0xF000#16, 0x7000#16⟩ (by decide) rfl (mask_group_byte _ _ _)

theorem ldI (nnn : Addr12) : Statement (.ldI nnn) :=
  of_row ⟨"LD_I__addr", 0xF000#16, 0xA000#16⟩ (by decide) rfl (mask_group_addr _ _)

theorem addI (x : RegIdx) : Statement (.addI x) :=
  of_row ⟨"ADD_I__Vx", 0xF0FF#16, 0xF01E#16⟩ (by decide) rfl (mask_byte _ _ _)

theorem rnd (x : RegIdx) (nn : Byte) : Statement (.rnd x nn) :=
  of_row ⟨"RND_Vx__byte", 0xF000#16, 0xC000#16⟩ (by decide) rfl (mask_group_byte _ _ _)

theorem drw (x y : RegIdx) (n : Nibble) : Statement (.drw x y n) :=
  of_row ⟨"DRW_Vx__Vy__nibble", 0xF000#16, 0xD000#16⟩ (by decide) rfl (mask_group_nibbles _ _ _ _)

theorem cls : Statement (.cls) :=
  of_row ⟨"CLS", 0xFFFF#16, 0x00E0#16⟩ (by decide) rfl (by decide)

theorem skp (x : RegIdx) : Statement (.skp x) :=
  of_row ⟨"SKP_Vx", 0xF0FF#16, 0xE09E#16⟩ (by decide) rfl (mask_byte _ _ _)

theorem sknp (x : RegIdx) : Statement (.sknp x) :=
  of_row ⟨"SKNP_Vx", 0xF0FF#16, 0xE0A1#16⟩ (by decide) rfl (mask_byte _ _ _)

theorem ldVxDT (x : RegIdx) : Statement (.ldVxDT x) :=
  of_row ⟨"LD_Vx__DT", 0xF0FF#16, 0xF007#16⟩ (by decide) rfl (mask_byte _ _ _)

theorem ldDT (x : RegIdx) : Statement (.ldDT x) :=
  of_row ⟨"LD_DT__Vx", 0xF0FF#16, 0xF015#16⟩ (by decide) rfl (mask_byte _ _ _)

theorem ldST (x : RegIdx) : Statement (.ldST x) :=
  of_row ⟨"LD_ST__Vx", 0xF0FF#16, 0xF018#16⟩ (by decide) rfl (mask_byte _ _ _)

theorem ldF (x : RegIdx) : Statement (.ldF x) :=
  of_row ⟨"LD_F__Vx", 0xF0FF#16, 0xF029#16⟩ (by decide) rfl (mask_byte _ _ _)

theorem ldB (x : RegIdx) : Statement (.ldB x) :=
  of_row ⟨"LD_B__Vx", 0xF0FF#16, 0xF033#16⟩ (by decide) rfl (mask_byte _ _ _)

theorem storeRegs (x : RegIdx) : Statement (.storeRegs x) :=
  of_row ⟨"LD__I___Vx", 0xF0FF#16, 0xF055#16⟩ (by decide) rfl (mask_byte _ _ _)

theorem loadRegs (x : RegIdx) : Statement (.loadRegs x) :=
  of_row ⟨"LD_Vx___I", 0xF0FF#16, 0xF065#16⟩ (by decide) rfl (mask_byte _ _ _)

theorem ldK (x : RegIdx) : Statement (.ldK x) :=
  of_row ⟨"LD_Vx__K", 0xF0FF#16, 0xF00A#16⟩ (by decide) rfl (mask_byte _ _ _)

end Sys2Proof.Laws.EncodesInRow
end

