-- ==== Sys2Proof/Tests/Slice0.lean ====
section
/-!
SUPPORT. The model's own tests: the word check on an ill-formed word of each group, words written out from spec/30_encoding.md
R86 and what they decode to, one-step vectors from spec/95_test_vectors.md, and for every obligation with hypotheses a
concrete state and operands that meet them.
-/

namespace Sys2Proof.Tests

open Sys2Proof Sys2Proof.Machine

/-! ### Well-formed words (R90): one refused word of each illegal group, and neighbours that are accepted -/

theorem test_illegal_group0 : legalWord 0x01E0#16 = false ∧ legalWord 0x0000#16 = false ∧ legalWord 0x00E0#16 = true := by decide
theorem test_illegal_group8 : legalWord 0x8128#16 = false ∧ legalWord 0x812F#16 = false ∧ legalWord 0x812E#16 = true := by decide
theorem test_illegal_groupE : legalWord 0xE59F#16 = false ∧ legalWord 0xE500#16 = false ∧ legalWord 0xE59E#16 = true := by decide
theorem test_illegal_groupF : legalWord 0xF356#16 = false ∧ legalWord 0xF30B#16 = false ∧ legalWord 0xF30A#16 = true := by decide
theorem test_wellFormed_all (i : Instr) : i.wellFormed = true := by cases i <;> rfl

/-! ### Decoding, words from the patterns of R86 -/

theorem test_decode_alu : decodeWord 0x8120#16 = .ok (.ldReg 1 2) ∧ decodeWord 0x8121#16 = .ok (.orReg 1 2) ∧
    decodeWord 0x8122#16 = .ok (.andReg 1 2) ∧ decodeWord 0x8123#16 = .ok (.xorReg 1 2) ∧
    decodeWord 0x8124#16 = .ok (.addReg 1 2) ∧ decodeWord 0x8125#16 = .ok (.subReg 1 2) ∧
    decodeWord 0x8106#16 = .ok (.shr 1 0) ∧ decodeWord 0x8127#16 = .ok (.subn 1 2) ∧
    decodeWord 0x812E#16 = .ok (.shl 1 2) := by decide
theorem test_decode_skip : decodeWord 0x3A42#16 = .ok (.seImm 0xA 0x42) ∧ decodeWord 0x4A42#16 = .ok (.sneImm 0xA 0x42) ∧
    decodeWord 0x5125#16 = .ok (.seReg 1 2 5) ∧ decodeWord 0x912F#16 = .ok (.sneReg 1 2 0xF) := by decide
theorem test_decode_control : decodeWord 0x1234#16 = .ok (.jp 0x234) ∧ decodeWord 0x2300#16 = .ok (.call 0x300) ∧
    decodeWord 0x00EE#16 = .ok .ret ∧ decodeWord 0xB2FF#16 = .ok (.jpV0 0x2FF) := by decide
theorem test_decode_load : decodeWord 0x6A42#16 = .ok (.ldImm 0xA 0x42) ∧ decodeWord 0x7AFF#16 = .ok (.addImm 0xA 0xFF) ∧
    decodeWord 0xA2F0#16 = .ok (.ldI 0x2F0) ∧ decodeWord 0xF31E#16 = .ok (.addI 3) ∧
    decodeWord 0xC30F#16 = .ok (.rnd 3 0x0F) := by decide
theorem test_decode_draw_input : decodeWord 0xD125#16 = .ok (.drw 1 2 5) ∧ decodeWord 0x00E0#16 = .ok .cls ∧
    decodeWord 0xE59E#16 = .ok (.skp 5) ∧ decodeWord 0xE5A1#16 = .ok (.sknp 5) := by decide
theorem test_decode_misc : decodeWord 0xF207#16 = .ok (.ldVxDT 2) ∧ decodeWord 0xF215#16 = .ok (.ldDT 2) ∧
    decodeWord 0xF218#16 = .ok (.ldST 2) ∧ decodeWord 0xF329#16 = .ok (.ldF 3) ∧ decodeWord 0xF033#16 = .ok (.ldB 0) ∧
    decodeWord 0xF255#16 = .ok (.storeRegs 2) ∧ decodeWord 0xF265#16 = .ok (.loadRegs 2) ∧
    decodeWord 0xF30A#16 = .ok (.ldK 3) := by decide
theorem test_decode_illegal : decodeWord 0x8128#16 = .error (.illegalWord 0x8128) ∧
    decodeWord 0x0123#16 = .error (.illegalWord 0x0123) ∧ decodeWord 0xE5A0#16 = .error (.illegalWord 0xE5A0) ∧
    decodeWord 0xF31F#16 = .error (.illegalWord 0xF31F) := by decide
/-- High byte first (R53): the bytes 6A 42 are the word 6A42, and one byte is no word. -/
theorem test_decode_bytes : decode [0x6A, 0x42, 0x11] = .ok (.ldImm 0xA 0x42, [0x11]) ∧
    decode [0x6A] = .error .truncated := by decide

/-! ### One step, vectors of spec/95_test_vectors.md section 2 -/

/-- The state after reset with the word at 0x200. -/
def placed (w : Word) : State := State.reset.placeWord w

/-- The state after one step, or the same state when the step stops. -/
def after (s : State) : State :=
  match step s with
  | .next t => t
  | .fault _ => s
  | .refused _ => s

/-- The same with `V1`, `V2` and `VF` set. -/
def two (w : Word) (a b f : Byte) : State := (((placed w).setReg 1 a).setReg 2 b).setReg vf f

/-- The result in `V1` and in `VF`. -/
def outcome (s : State) : Byte × Byte := ((after s).reg 1, (after s).reg vf)

theorem test_copy : outcome (two 0x8120 0x00 0x5A 0x33) = (0x5A, 0x33) := by decide
theorem test_or : outcome (two 0x8121 0xF0 0x0F 0x33) = (0xFF, 0x33) := by decide
theorem test_and : outcome (two 0x8122 0xF0 0x3C 0x33) = (0x30, 0x33) := by decide
theorem test_xor : outcome (two 0x8123 0xF0 0x3C 0x33) = (0xCC, 0x33) := by decide
theorem test_add_carry : outcome (two 0x8124 0xFF 0x01 0) = (0x00, 1) ∧ outcome (two 0x8124 0xFE 0x01 7) = (0xFF, 0) := by decide
theorem test_add_flag_operands : outcome (two 0x81F4 0x10 0 0x05) = (0x15, 0) ∧ (after (two 0x8F14 0x20 0 0xF0)).reg vf = 0x10 := by decide
theorem test_sub_equal : outcome (two 0x8125 0x07 0x07 9) = (0x00, 0) ∧ outcome (two 0x8125 0x05 0x0A 9) = (0xFB, 0) := by decide
theorem test_sub_vf : (after (two 0x8F15 0x04 0 0x09)).reg vf = 0x05 := by decide
theorem test_shr : outcome (two 0x8126 0x05 0xFF 0) = (0x02, 1) ∧ (after (two 0x8F06 0 0 0x07)).reg vf = 0x03 := by decide
theorem test_subn : outcome (two 0x8127 0x05 0x0A 0) = (0x05, 1) ∧ outcome (two 0x8127 0x07 0x07 1) = (0x00, 0) := by decide
theorem test_shl_quirk : outcome (two 0x810E 0x81 0 1) = (0x02, 0x80) ∧ outcome (two 0x812E 0x40 0xFF 1) = (0x80, 0) := by decide
theorem test_se_imm : (after ((placed 0x3A42).setReg 0xA 0x42)).pc = 0x204 ∧ (after ((placed 0x3A42).setReg 0xA 0x41)).pc = 0x202 := by decide
theorem test_sne_imm : (after ((placed 0x4A42).setReg 0xA 0x41)).pc = 0x204 ∧ (after ((placed 0x4A42).setReg 0xA 0x42)).pc = 0x202 := by decide
theorem test_se_reg : (after (two 0x5125 7 7 0)).pc = 0x204 ∧ (after (two 0x5120 7 8 0)).pc = 0x202 := by decide
theorem test_sne_reg : (after (two 0x912F 7 8 0)).pc = 0x204 ∧ (after (two 0x9120 7 7 0)).pc = 0x202 := by decide
theorem test_jp : (after (placed 0x1FFF)).pc = 0xFFF := by decide
theorem test_call : (after (placed 0x2300)).stack = [0x202] ∧ (after (placed 0x2300)).pc = 0x300 := by decide
theorem test_call_overflow : (after ((placed 0x2200).setStack (List.replicate 16 0x202))).err = ⟨3, 0x2200, 0x200⟩ ∧
    (after ((placed 0x2200).setStack (List.replicate 15 0x202))).halted = false := by decide
theorem test_ret : (after ((placed 0x00EE).setStack [0x212, 0x415])).pc = 0x415 ∧
    (after ((placed 0x00EE).setStack [0x212, 0x415])).stack = [0x212] := by decide
theorem test_ret_underflow : (after (placed 0x00EE)).err = ⟨4, 0x00EE, 0x200⟩ ∧ (after (placed 0x00EE)).pc = 0x202 := by decide
theorem test_jpV0 : (after ((placed 0xBFFF).setReg 0 0xFF)).pc = 0x10FE := by decide
theorem test_ldImm : (after (placed 0x6F99)).reg vf = 0x99 := by decide
theorem test_addImm_no_flag : (after (((placed 0x7A10).setReg 0xA 0xF8).setReg vf 0x55)).reg 0xA = 0x08 ∧
    (after (((placed 0x7A10).setReg 0xA 0xF8).setReg vf 0x55)).reg vf = 0x55 := by decide
theorem test_ldI : (after (placed 0xAFFF)).ireg = 0x0FFF := by decide
theorem test_addI_wraps : (after (((placed 0xF31E).setI 0xFFFF).setReg 3 1)).ireg = 0 ∧
    (after (((placed 0xF31E).setI 0x0FFF).setReg 3 1)).ireg = 0x1000 := by decide

/-- The word with one supplied level of `KEYS` and one supplied random byte. -/
def fed (w : Word) (keys : BitVec 16) (r : Byte) : State :=
  (placed w).setEnv { State.reset.env with keysFeed := [keys], rndFeed := [r] }

theorem test_rnd : (after (fed 0xC30F 0 0xA7)).reg 3 = 0x07 ∧ (after (fed 0xC3F0 0 0x3C)).reg 3 = 0x30 := by decide
theorem test_skp : (after ((fed 0xE59E 0x0400 0).setReg 5 0x0A)).pc = 0x204 ∧
    (after ((fed 0xE59E 0x0800 0).setReg 5 0x0A)).pc = 0x202 := by decide
theorem test_skp_above_15 : (after ((fed 0xE59E 0xFFFF 0).setReg 5 0x1A)).pc = 0x202 ∧
    (after ((fed 0xE5A1 0xFFFF 0).setReg 5 0x10)).pc = 0x204 := by decide
theorem test_sknp : (after ((fed 0xE5A1 0 0).setReg 5 0x0A)).pc = 0x204 ∧
    (after ((fed 0xE5A1 0x0400 0).setReg 5 0x0A)).pc = 0x202 := by decide

/-- Glyph 0 at the origin (R172): rows F 9 9 9 F, and the second draw erases them with VF = 1. -/
theorem test_drw_glyph : (after (placed 0xD015)).fb.toList.take 6 = [15, 9, 9, 9, 15, 0] ∧
    (after (((placed 0xD015).setFb (after (placed 0xD015)).fb))).reg vf = 1 := by decide
/-- A sprite of one row 0xFF at (62, 31) wraps at the right edge (R170 d). -/
theorem test_drw_wraps : ((after (((((placed 0xD011).setReg 0 62).setReg 1 31).setI 0x300).setMem
    (Memory.write (placed 0xD011).mem 0x300 0xFF))).fb.toList.drop 31) = [0xC00000000000003F] := by decide
theorem test_drw_range : (after ((placed 0xD01F).setI 0xFF2)).err = ⟨2, 0xD01F, 0x200⟩ ∧
    (after ((placed 0xD010).setI 0xFFFF)).halted = false := by decide
theorem test_cls : (after (((placed 0x00E0).setFb (Vector.replicate 32 5)).setReg vf 3)).fb = FrameBuffer.clear ∧
    (after (((placed 0x00E0).setFb (Vector.replicate 32 5)).setReg vf 3)).reg vf = 3 := by decide
theorem test_ldVxDT : (after ((placed 0xF207).setDT 0x3C)).reg 2 = 0x3C := by decide
theorem test_ldDT : (after ((placed 0xF215).setReg 2 0x3C)).dt = 0x3C := by decide
theorem test_ldST : (after ((placed 0xF218).setReg 2 0x05)).st = 0x05 ∧ (after ((placed 0xF218).setReg 2 0x05)).tone = false := by decide
theorem test_ldF : (after ((placed 0xF329).setReg 3 0x1A)).ireg = 0x0032 := by decide
theorem test_ldB : (List.range 3).map (fun k => (after (((placed 0xF033).setI 0xFFD).setReg 0 0x7B)).readByte (0xFFD + k)) = [1, 2, 3] ∧
    (after ((placed 0xF033).setI 0xFFE)).err = ⟨2, 0xF033, 0x200⟩ := by decide
theorem test_storeRegs : (after (((placed 0xF155).setI 0x400).setReg 1 0x22)).readByte 0x401 = 0x22 ∧
    (after ((placed 0xFF55).setI 0xFF1)).err = ⟨2, 0xFF55, 0x200⟩ := by decide
/-- The font is at 0x000 (R41): a load from I = 0 reads glyph 0. -/
theorem test_loadRegs : (after (placed 0xF165)).reg 0 = 0xF0 ∧ (after (placed 0xF165)).reg 1 = 0x90 ∧
    (after ((placed 0xF165).setI 0xFFF)).err = ⟨2, 0xF165, 0x200⟩ := by decide
theorem test_ldK : (after (placed 0xF30A)).kwait = some 3 ∧
    ((after (placed 0xF30A)).keyPress 0xB).reg 3 = 0x0B ∧ ((after (placed 0xF30A)).keyPress 0xB).pc = 0x202 := by decide
theorem test_illegal_word : (after (placed 0x8008)).err = ⟨1, 0x8008, 0x200⟩ ∧ (after (placed 0x8008)).pc = 0x202 := by decide
theorem test_tick : ((State.reset.setDT 1).setST 2).tick.dt = 0 ∧ ((State.reset.setDT 1).setST 2).tick.tone = true ∧
    (State.reset.setST 1).tick.tone = false ∧ State.reset.tick.dt = 0 := by decide
theorem test_scheduled_tick : (after ((State.reset.setDT 3).setEnv { State.reset.env with schedule := [.tick] })).dt = 2 := by decide
theorem test_table_word : decodeTableWord 16 0xD015 = some (.drw 0 1 5) ∧ decodeTableWord 16 0x8008 = none := by decide

/-! ### Witnesses: a state and operands that meet each obligation's hypotheses -/

theorem witness_EncodeOfDecode : decodeWord 0x912F#16 = .ok (.sneReg 1 2 0xF) := by decide
theorem witness_AtMostOneRowSelects : ∃ r ∈ opcodeMap, r.selects 0x00E0#16 = true := by decide
theorem witness_Call_below : (State.reset.setStack (List.replicate 15 0x202)).stack.length < 16 := by decide
theorem witness_Call_full : (State.reset.setStack (List.replicate 16 0x202)).stack.length = 16 := by decide
theorem witness_Return_some : (State.reset.setStack [0x212, 0x415]).stack = [0x212] ++ [0x415] := by decide
theorem witness_Return_empty : State.reset.stack = [] := by decide
theorem witness_Completion : ∃ t, exec .cls State.reset = .next t := ⟨_, rfl⟩
theorem witness_OnlyThreeInstructionsWriteI : ∃ t, exec (.ldI 5) State.reset = .next t ∧ t.ireg ≠ State.reset.ireg :=
  ⟨_, rfl, by decide⟩
theorem witness_Writers_fb : ∃ t, exec (.drw 0 1 5) State.reset = .next t ∧ t.fb ≠ State.reset.fb := ⟨_, rfl, by decide⟩
theorem witness_Writers_stack : ∃ t, exec (.call 0x300) State.reset = .next t ∧ t.stack ≠ State.reset.stack :=
  ⟨_, rfl, by decide⟩
theorem witness_Writers_dt : ∃ t, exec (.ldDT 2) (State.reset.setReg 2 7) = .next t ∧ t.dt ≠ 0 := ⟨_, rfl, by decide⟩
theorem witness_Writers_st : ∃ t, exec (.ldST 2) (State.reset.setReg 2 7) = .next t ∧ t.st ≠ 0 := ⟨_, rfl, by decide⟩
theorem witness_Writers_wait : ∃ t, exec (.ldK 3) State.reset = .next t ∧ t.paused ≠ State.reset.paused :=
  ⟨_, rfl, by decide⟩
theorem witness_InstructionsThatRaise : ∃ t, exec .ret State.reset = .next t ∧ t.halted = true := ⟨_, rfl, by decide⟩

/-- A running machine with nothing scheduled and a fetch in range, as the step obligations assume. -/
def Ready (s : State) : Prop :=
  s.env.schedule = [] ∧ s.halted = false ∧ s.paused = false ∧ s.pc.toNat ≤ 0x0FFE

theorem witness_StepRuns : Ready (placed 0xD015) ∧
    decodeWord (wordOfBytes ((placed 0xD015).readByte 0x200) ((placed 0xD015).readByte 0x201)) = .ok (.drw 0 1 5) :=
  ⟨⟨rfl, rfl, rfl, by decide⟩, by decide⟩
/-- The last address a fetch can use (R57). -/
theorem witness_StepRuns_last : Ready ((State.reset.setPc 0xFFE).placeWord 0x6011) ∧
    ((State.reset.setPc 0xFFE).placeWord 0x6011).pc = 0xFFE := ⟨⟨rfl, rfl, rfl, by decide⟩, by decide⟩
theorem witness_Random_free : Ready (placed 0xC30F) ∧ (placed 0xC30F).env.rndFeed = [] ∧
    decodeWord (wordOfBytes ((placed 0xC30F).readByte 0x200) ((placed 0xC30F).readByte 0x201)) = .ok (.rnd 3 0x0F) :=
  ⟨⟨rfl, rfl, rfl, by decide⟩, rfl, by decide⟩
theorem witness_Random_fed : Ready (fed 0xC30F 0 0xA7) ∧ (fed 0xC30F 0 0xA7).env.rndFeed = 0xA7 :: [] ∧
    decodeWord (wordOfBytes ((fed 0xC30F 0 0xA7).readByte 0x200) ((fed 0xC30F 0 0xA7).readByte 0x201)) =
      .ok (.rnd 3 0x0F) := ⟨⟨rfl, rfl, rfl, by decide⟩, rfl, by decide⟩
theorem witness_IllegalWord : Ready (placed 0x8008) ∧
    wordOfBytes ((placed 0x8008).readByte 0x200) ((placed 0x8008).readByte 0x201) = 0x8008 ∧ legalWord 0x8008 = false :=
  ⟨⟨rfl, rfl, rfl, by decide⟩, by decide, by decide⟩
theorem witness_FetchBeyondMemory : (State.reset.setPc 0xFFF).pc.toNat > 0x0FFE ∧ State.reset.halted = false ∧
    State.reset.paused = false ∧ State.reset.env.schedule = [] := by decide
theorem witness_Suspended_halted : (State.reset.raise .decodeError 0 0).halted = true := by decide
theorem witness_Suspended_paused : (State.reset.waitKey 3).paused = true ∧ (State.reset.waitKey 3).env.schedule = [] := by decide
theorem witness_ErrorsArePrecise_execute : ∃ t, step (placed 0x8008) = .next t ∧ t.halted = true := ⟨_, rfl, by decide⟩
theorem witness_ErrorsArePrecise_fetch : ∃ t, step (State.reset.setPc 0xFFF) = .next t ∧ t.halted = true :=
  ⟨_, rfl, by decide⟩
theorem witness_HaltedIsTerminal : (State.reset.raise .decodeError 0 0).halted = true ∧ Event.tick ≠ .reset ∧
    ∀ image, Event.tick ≠ .boot image := ⟨rfl, by decide, fun _ h => nomatch h⟩
/-- The store reaches the last byte of memory and the fetch reads its last word; the decimal store likewise. -/
theorem witness_StoreIsSeen : (State.reset.setI 0xFFE).ireg.toNat + (1 : RegIdx).toNat ≤ 0x0FFF ∧
    (State.reset.setI 0xFFD).ireg.toNat + 2 ≤ 0x0FFF ∧ (0xFFE : Word).toNat ≤ 0x0FFE := by decide
/-- An instruction that is no RND: it leaves the random bytes. -/
theorem witness_Random_others : ∃ t, exec (.skp 5) (fed 0xE59E 0x0400 0xA7) = .next t ∧ t.env.keysFeed = [] ∧
    t.env.rndFeed = [0xA7] := ⟨_, rfl, rfl, rfl⟩
theorem witness_Writers_inputs : ∃ t, exec (.skp 5) State.reset = .next t ∧ t.env ≠ State.reset.env :=
  ⟨_, rfl, by decide⟩

theorem witness_Draw_last : (State.reset.setI 0xFF1).ireg.toNat + (0xF : Nibble).toNat ≤ 0x1000 := by decide
theorem witness_Draw_beyond : 1 ≤ (0xF : Nibble).toNat ∧ (State.reset.setI 0xFF2).ireg.toNat + (0xF : Nibble).toNat - 1 > 0x0FFF := by decide
theorem witness_Draw_touched : Touched State.reset 0 1 5 0 0 := ⟨0, 0, by decide, by decide, by decide, by decide, by decide⟩
theorem witness_Draw_untouched : ¬ Touched State.reset 0 1 5 10 10 := by
  rintro ⟨r, c, hr, -, -, -, hy⟩
  have h5 : r < 5 := hr
  have hy' : (0 + r) % 32 = 10 := hy
  omega
theorem witness_Draw_collides : Collides (State.reset.setFb (Vector.replicate 32 1)) 0 1 5 :=
  ⟨0, 0, ⟨0, 0, by decide, by decide, by decide, by decide, by decide⟩, by decide⟩
theorem witness_Draw_no_collision : ¬ Collides State.reset 0 1 5 := by
  rintro ⟨px, py, -, h⟩
  rw [show State.reset.fb = FrameBuffer.clear from rfl, FrameBuffer.pixel_clear] at h
  exact absurd h (by decide)
theorem witness_DrawTwice : (0 : RegIdx) ≠ vf ∧ (1 : RegIdx) ≠ vf ∧ State.reset.ireg.toNat + (5 : Nibble).toNat ≤ 0x1000 := by decide
theorem witness_Decimal : (State.reset.setI 0xFFD).ireg.toNat + 2 ≤ 0x0FFF ∧ (State.reset.setI 0xFFE).ireg.toNat + 2 > 0x0FFF := by decide
theorem witness_Block : (State.reset.setI 0xFF0).ireg.toNat + (0xF : RegIdx).toNat ≤ 0x0FFF ∧
    (State.reset.setI 0xFF1).ireg.toNat + (0xF : RegIdx).toNat > 0x0FFF := by decide
theorem witness_Block_operands : (3 : RegIdx).toNat ≤ (0xF : RegIdx).toNat ∧ (2 : RegIdx).toNat < (3 : RegIdx).toNat := by decide
theorem witness_KeyWait : (State.reset.waitKey 3).halted = false ∧ (State.reset.waitKey 3).kwait = some 3 := by decide
theorem witness_KeyPress_idle : (State.reset.raise .decodeError 0 0).halted = true ∧ State.reset.kwait = none := by decide
theorem witness_Tick : (State.reset.raise .decodeError 0 0).halted = true ∧ State.reset.halted = false := by decide
theorem witness_OnlyAKeyPress : ∃ t, (State.reset.waitKey 3).onEvent (.keyPress 7) = .next t ∧ t.paused = false :=
  ⟨_, rfl, by decide⟩
theorem witness_Reset_addresses : (0x4F : Nat) < 0x50 ∧ (0x50 : Nat) ≤ 0x50 := by decide
theorem witness_Boot : (List.replicate 3584 (0 : Byte)).length ≤ 3584 ∧ 3584 < (List.replicate 3585 (0 : Byte)).length := by
  simp only [List.length_replicate]; decide
theorem witness_CycleBatch_running : ∃ t, engineStep (placed 0x6011) = .next t ∧ t.halted = false := ⟨_, rfl, by decide⟩
theorem witness_CycleBatch_error : ∃ t, engineStep (placed 0x8008) = .next t ∧ t.halted = true := ⟨_, rfl, by decide⟩
theorem witness_Batch : (State.reset.setEnv { State.reset.env with schedule := batchEvents 2 }).env.schedule = batchEvents 2 := rfl
theorem witness_Invariant : MachineInv (placed 0x00E0) ∧ ∃ t, step (placed 0x00E0) = .next t :=
  ⟨⟨by decide, by decide, rfl, by decide, by decide, by decide, fun _ h => absurd h List.not_mem_nil⟩, _, rfl⟩
theorem witness_Canonical : Memory.wf [(0, 0x11), (0x200, 0x60)] = true ∧ Memory.wf [(0, 0xF0)] = false ∧
    Memory.wf [(5, 1), (3, 1)] = false := by decide

end Sys2Proof.Tests
end

/-! SUPPORT. The machine's invariant under every update, instruction and event (spec/10_state.md R29, R33, R34, R35). -/

namespace Sys2Proof.Machine

open Sys2Proof

/-! ### The invariant under the state's updates

An update that writes no field the invariant speaks of keeps it field by field. -/

theorem MachineInv.setReg {s : State} (h : MachineInv s) (x : RegIdx) (b : Byte) : MachineInv (s.setReg x b) :=
  { h with }

theorem MachineInv.setEnv {s : State} (h : MachineInv s) (e : Env) : MachineInv (s.setEnv e) :=
  { h with }

theorem MachineInv.setFb {s : State} (h : MachineInv s) (f : FrameBuffer) : MachineInv (s.setFb f) :=
  { h with }

theorem MachineInv.setPc {s : State} (h : MachineInv s) {p : Word} (hp : p.toNat ≤ 0x10FE) : MachineInv (s.setPc p) :=
  { h with counter := hp }

theorem MachineInv.setMem {s : State} (h : MachineInv s) {m : Memory} (hm : Memory.wf m = true) :
    MachineInv (s.setMem m) :=
  { h with memory := hm }

theorem MachineInv.setStack {s : State} (h : MachineInv s) {l : List Word} (hl : l.length ≤ Config.stackDepth)
    (ha : ∀ a ∈ l, a.toNat ≤ 0x1000) : MachineInv (s.setStack l) :=
  { h with depth := hl, returns := ha }

/-- The wait begins only in a running machine, or it would wait and be halted at once (R194 g). -/
theorem MachineInv.waitKey {s : State} (h : MachineInv s) (hh : s.halted = false) (x : RegIdx) :
    MachineInv (s.waitKey x) :=
  { h with waiting := rfl, oneStop := by simp [hh] }

theorem MachineInv.endWait {s : State} (h : MachineInv s) : MachineInv s.endWait :=
  { h with waiting := rfl, oneStop := by simp }

/-- No cause of R231 has the code of "no error". -/
theorem ErrorCause.code_ne_zero (c : ErrorCause) : c.code ≠ 0#3 := by
  cases c <;> decide

/-- An error is raised only in a machine that does not wait (R194 g). -/
theorem MachineInv.raise {s : State} (h : MachineInv s) (hp : s.paused = false) (c : ErrorCause) (w a : Word) :
    MachineInv (s.raise c w a) :=
  { h with error := by simp [c.code_ne_zero], oneStop := by simp [hp] }

/-! ### The invariant under one instruction -/

/-- After a fetch, `pc` is at most 0x1000, so a skip leaves it at most at 0x1002. -/
theorem NearPc.toNat_le {s : State} {p : Word} (h : NearPc s p) (hs : s.pc.toNat ≤ 0x1000) : p.toNat ≤ 0x10FE := by
  rcases h with rfl | rfl | h
  · omega
  · rw [BitVec.toNat_add]; simp; omega
  · exact h

theorem toNat_addrOperand_le (nnn : Addr12) : (addrOperand nnn).toNat ≤ 0x10FE := by
  have := nnn.isLt
  simp [addrOperand]; omega

/-- Every effect of an instruction keeps the invariant, in the states in which an instruction executes: running, with
`pc` advanced past a fetched word (R200, R201). -/
theorem MachineInv.of_effect {i : Instr} {s t : State} (h : MachineInv s) (hh : s.halted = false)
    (hp : s.paused = false) (hpc : s.pc.toNat ≤ 0x1000) (he : Effect i s t) : MachineInv t := by
  cases he with
  | raised _ _ => exact h.raise hp _ _ _
  | called _ nnn hl =>
    have ha : ∀ a ∈ s.stack ++ [s.pc], a.toNat ≤ 0x1000 := by
      simpa [or_imp, forall_and] using ⟨h.returns, hpc⟩
    exact (h.setStack (by simpa using hl) ha).setPc (toNat_addrOperand_le nnn)
  | returned _ l a hs =>
    have hdepth : l.length + 1 ≤ Config.stackDepth := by simpa [hs] using h.depth
    have hret : ∀ b ∈ l ++ [a], b.toNat ≤ 0x1000 := hs ▸ h.returns
    have htop : a.toNat ≤ 0x1000 := hret a (by simp)
    exact (h.setStack (by omega) fun b hb => hret b (by simp [hb])).setPc (by omega)
  | drawn _ _ _ _ f b => exact (h.setFb f).setReg vf b
  | cleared => exact h.setFb _
  | stored _ bs _ _ hr => exact h.setMem (Memory.wf_writeFrom h.memory hr)
  | registers _ _ v => exact { h with }
  | randomByte _ x _ b => exact (h.setEnv _).setReg x b
  | keySkip _ p _ hn => exact (h.setEnv _).setPc (hn.toNat_le hpc)
  | delayTimer | soundTimer | address => exact { h with }
  | waiting _ x => exact h.waitKey hh x
  | jumped _ _ p hn => exact h.setPc (hn.toNat_le hpc)

theorem MachineInv.of_executeWord {w : Word} {s t : State} (h : MachineInv s) (hh : s.halted = false)
    (hp : s.paused = false) (hpc : s.pc.toNat ≤ 0x1000) (hx : executeWord w s = .next t) : MachineInv t := by
  cases hd : decodeWord w with
  | ok i =>
    rw [executeWord_ok hd] at hx
    exact h.of_effect hh hp hpc (exec_effect i s t hx)
  | error e =>
    rw [executeWord_error hd] at hx
    cases hx
    exact h.raise hp _ _ _

/-! ### The invariant under the events -/

theorem MachineInv.of_engineStep {s t : State} (h : MachineInv s) (hx : engineStep s = .next t) : MachineInv t := by
  cases hh : s.halted with
  | true => rw [engineStep_halted hh] at hx; cases hx; exact h
  | false =>
    cases hp : s.paused with
    | true => rw [engineStep_paused hp] at hx; cases hx; exact h
    | false =>
      by_cases hf : s.pc.toNat ≤ 0x0FFE
      · have hpc : (s.pc + 2#16).toNat ≤ 0x1000 := by rw [BitVec.toNat_add]; simp; omega
        rw [engineStep_fetch hh hp (s.fetchWord_some hf)] at hx
        exact (h.setPc (p := s.pc + 2#16) (by omega)).of_executeWord hh hp hpc hx
      · rw [engineStep_fetchError hh hp (s.fetchWord_none (by omega))] at hx
        cases hx
        exact h.raise hp _ _ _

theorem MachineInv.tick {s : State} (h : MachineInv s) : MachineInv s.tick := by
  cases hh : s.halted with
  | true => rwa [State.tick_halted hh]
  | false => rw [State.tick_running hh]; exact { h with }

theorem MachineInv.keyPress {s : State} (h : MachineInv s) (k : BitVec 4) : MachineInv (s.keyPress k) := by
  cases hh : s.halted with
  | true => rwa [State.keyPress_idle k (.inl hh)]
  | false =>
    cases hk : s.kwait with
    | none => rwa [State.keyPress_idle k (.inr hk)]
    | some x => rw [State.keyPress_waiting k hh hk]; exact (h.setReg x _).endWait

/-- Settles O55: each clause is a fact about the fixed reset values (R260). -/
theorem resetHasInvariant : Obligations.ResetHasInvariant where
  memory := rfl
  depth := Nat.zero_le _
  waiting := rfl
  error := rfl
  oneStop := by decide
  counter := by decide
  returns := fun _ ha => absurd ha List.not_mem_nil

/-- An image that fits ends at or below the end of memory, so loading it keeps the canonical form (R216). -/
theorem MachineInv.of_load {s t : State} {image : List Byte} (h : MachineInv s) (hx : s.load image = .next t) :
    MachineInv t := by
  unfold State.load at hx
  split at hx
  · next hl =>
    cases hx
    refine h.setMem (Memory.wf_writeFrom h.memory ?_)
    simp only [Config.maxImage] at hl
    simp only [Config.progBase, Config.memSize]
    omega
  · cases hx

theorem MachineInv.onReset (s : State) : MachineInv s.onReset :=
  resetHasInvariant.setEnv s.env

theorem MachineInv.of_onEvent {s t : State} {e : Event} (h : MachineInv s) (hx : s.onEvent e = .next t) :
    MachineInv t := by
  cases e with
  | step => exact h.of_engineStep hx
  | tick => cases hx; exact h.tick
  | keyPress k => cases hx; exact h.keyPress k
  | reset => cases hx; exact .onReset s
  | boot image => exact (MachineInv.onReset s).of_load hx

/-- Settles O54: a transition is a step of the engine or the scheduled event, and each of them keeps the invariant. -/
theorem stepKeepsInvariant : Obligations.StepKeepsInvariant := by
  intro s t h hx
  cases hs : s.env.schedule with
  | nil => rw [step_engine hs] at hx; exact h.of_engineStep hx
  | cons e es => rw [step_event hs] at hx; exact (h.setEnv _).of_onEvent hx

end Sys2Proof.Machine

/-! SUPPORT. Which registers an instruction leaves unchanged (spec/10_state.md R22, R23). -/

namespace Sys2Proof.Machine

open Sys2Proof

theorem regsKept_setReg (s : State) {x : RegIdx} (b : Byte) {l : List RegIdx} (hx : x ∈ l) :
    RegsKept s (s.setReg x b) l :=
  fun r hr => s.reg_setReg_other x r b fun e => hr (e ▸ hx)

theorem regsKept_setFlagged (s : State) (x : RegIdx) (f b : Byte) : RegsKept s (s.setFlagged x f b) [x, vf] := by
  intro r hr
  obtain ⟨hx, hv⟩ : r ≠ x ∧ r ≠ vf := by simpa using hr
  rw [State.setFlagged_reg, if_neg hx, if_neg hv]

/-- A load of X + 1 bytes writes `V[0]` to `V[X]` only (R192). -/
theorem regsKept_loadFrom (s : State) {x : RegIdx} {bs : List Byte} (hl : bs.length = x.toNat + 1) :
    RegsKept s (s.loadFrom 0 bs) (writtenRegs (.loadRegs x)) := by
  intro r hr
  have hx := x.isLt
  have hout : ¬ r.toNat < x.toNat + 1 := fun hlt =>
    hr (List.mem_map.mpr ⟨r.toNat, List.mem_range.mpr hlt, by simp⟩)
  rw [State.loadFrom_reg s 0 bs (by omega), if_neg (by omega)]

theorem regsKept_raiseIn {s t : State} {c : ErrorCause} {i : Instr} {l : List RegIdx}
    (h : s.raiseIn c i = .next t) : RegsKept s t l := by
  cases h
  exact fun r _ => s.raise_reg _ _ _ r

theorem State.readBlock_length {s : State} {base n : Nat} {bs : List Byte} (h : s.readBlock base n = some bs) :
    bs.length = n := by
  unfold State.readBlock at h
  split at h <;> cases h
  exact Memory.length_readFrom s.mem base n

/-- A store that answers a state changes memory only. -/
theorem State.writeBlock_eq_some {s u : State} {base : Nat} {bs : List Byte} (h : s.writeBlock base bs = some u) :
    u = s.setMem (Memory.writeFrom s.mem base bs) := by
  unfold State.writeBlock at h
  split at h <;> cases h
  rfl

theorem State.push_eq_some {s u : State} {a : Word} (h : s.push a = some u) : u = s.setStack (s.stack ++ [a]) := by
  unfold State.push at h
  split at h <;> cases h
  rfl

theorem State.pop_eq_some {s u : State} {a : Word} (h : s.pop = some (a, u)) : u = s.setStack s.stack.dropLast := by
  unfold State.pop at h
  split at h <;> cases h
  rfl

/-- Settles O34, by cases on the instruction: a write of the destination, of the destination and VF, of `V[0]` to `V[X]`,
or of no register. -/
theorem registerFrame : Obligations.RegisterFrame := by
  intro i s t h
  cases i <;> simp only [exec] at h
  case ldReg | orReg | andReg | xorReg | ldImm | addImm | ldVxDT =>
    cases h
    exact regsKept_setReg s _ (List.mem_singleton_self _)
  case rnd x nn =>
    cases h
    exact regsKept_setReg (s.setEnv _) _ (List.mem_singleton_self x)
  case addReg | subReg | shr | subn | shl =>
    cases h
    exact regsKept_setFlagged s _ _ _
  case drw x y n =>
    unfold execDrw at h
    split at h
    · cases h
      exact regsKept_setReg (s.setFb _) _ (List.mem_singleton_self vf)
    · exact regsKept_raiseIn h
  case loadRegs x =>
    unfold execLoadRegs at h
    split at h
    · next hb => cases h; exact regsKept_loadFrom s (State.readBlock_length hb)
    · exact regsKept_raiseIn h
  case call nnn =>
    unfold execCall at h
    split at h
    · next hp => cases h; cases State.push_eq_some hp; exact fun _ _ => rfl
    · exact regsKept_raiseIn h
  case ret =>
    unfold execRet at h
    split at h
    · next hp => cases h; cases State.pop_eq_some hp; exact fun _ _ => rfl
    · exact regsKept_raiseIn h
  case ldB | storeRegs =>
    simp only [execLdB, execStoreRegs] at h
    split at h
    · next hw => cases h; cases State.writeBlock_eq_some hw; exact fun _ _ => rfl
    · exact regsKept_raiseIn h
  case seImm | sneImm | seReg | sneReg | jp | jpV0 | ldI | addI | cls | skp | sknp | ldDT | ldST | ldF | ldK =>
    cases h
    exact fun _ _ => rfl

end Sys2Proof.Machine

/-! SUPPORT. Which instructions write each field of the state beside the general registers and memory (spec/10_state.md
R24, R28, R32, R36, R43): every other effect leaves the field as it is. -/

namespace Sys2Proof.Machine

open Sys2Proof

section

variable {i : Instr} {s t : State}

theorem Effect.writer_ireg (h : Effect i s t) (hne : t.ireg ≠ s.ireg) :
    (∃ nnn, i = .ldI nnn) ∨ (∃ x, i = .addI x) ∨ ∃ x, i = .ldF x := by
  cases h with
  | address _ _ hi => exact hi
  | _ => exact absurd rfl hne

theorem Effect.writer_fb (h : Effect i s t) (hne : t.fb ≠ s.fb) : (∃ x y n, i = .drw x y n) ∨ i = .cls := by
  cases h with
  | drawn _ x y n => exact .inl ⟨x, y, n, rfl⟩
  | cleared => exact .inr rfl
  | _ => exact absurd rfl hne

theorem Effect.writer_stack (h : Effect i s t) (hne : t.stack ≠ s.stack) : (∃ nnn, i = .call nnn) ∨ i = .ret := by
  cases h with
  | called _ nnn => exact .inl ⟨nnn, rfl⟩
  | returned => exact .inr rfl
  | _ => exact absurd rfl hne

theorem Effect.writer_dt (h : Effect i s t) (hne : t.dt ≠ s.dt) : ∃ x, i = .ldDT x := by
  cases h with
  | delayTimer _ x => exact ⟨x, rfl⟩
  | _ => exact absurd rfl hne

theorem Effect.writer_st (h : Effect i s t) (hne : t.st ≠ s.st) : ∃ x, i = .ldST x := by
  cases h with
  | soundTimer _ x => exact ⟨x, rfl⟩
  | _ => exact absurd rfl hne

theorem Effect.writer_wait (h : Effect i s t) (hne : t.paused ≠ s.paused ∨ t.kwait ≠ s.kwait) : ∃ x, i = .ldK x := by
  cases h with
  | waiting _ x => exact ⟨x, rfl⟩
  | _ => exact hne.elim (absurd rfl) (absurd rfl)

theorem Effect.writer_env (h : Effect i s t) (hne : t.env ≠ s.env) :
    (∃ x nn, i = .rnd x nn) ∨ (∃ x, i = .skp x) ∨ ∃ x, i = .sknp x := by
  cases h with
  | randomByte _ x nn => exact .inl ⟨x, nn, rfl⟩
  | keySkip _ _ hi => exact .inr hi
  | _ => exact absurd rfl hne

theorem Effect.tone_eq (h : Effect i s t) : t.tone = s.tone := by
  cases h <;> rfl

end

/-- Settles O36: of the effects of an instruction only `address` writes `I`. -/
theorem onlyThreeInstructionsWriteI : Obligations.OnlyThreeInstructionsWriteI :=
  fun i s t h => (exec_effect i s t h).writer_ireg

/-- Settles O37, one clause per field. -/
theorem writersOfSpecialState : Obligations.WritersOfSpecialState := by
  intro i s t h
  have he := exec_effect i s t h
  exact ⟨he.writer_fb, he.writer_stack, he.writer_dt, he.writer_st, he.writer_wait, he.writer_env, he.tone_eq⟩

end Sys2Proof.Machine

/-! SUPPORT. What the events do in a halted and in a paused machine (spec/10_state.md R32, R34). -/

namespace Sys2Proof.Machine

open Sys2Proof

/-- Settles O45, by cases on the event: a step, a tick and a key press each leave a halted state (R238). -/
theorem haltedIsTerminal : Obligations.HaltedIsTerminal := by
  intro s e hh hreset hboot
  cases e with
  | step => exact engineStep_halted hh
  | tick => exact congrArg Host.Outcome.next (State.tick_halted hh)
  | keyPress k => exact congrArg Host.Outcome.next (State.keyPress_idle k (.inl hh))
  | reset => exact absurd rfl hreset
  | boot image => exact absurd rfl (hboot image)

/-- A tick does not depend on the wait and does not change it (R212). -/
theorem State.tick_paused (s : State) : s.tick.paused = s.paused := by
  unfold State.tick
  split <;> rfl

/-- Settles O49, by cases on the event: neither a step nor a tick ends a wait. -/
theorem onlyAKeyPressEndsTheWait : Obligations.OnlyAKeyPressEndsTheWait := by
  intro s t e hp hx ht
  cases e with
  | step =>
    obtain rfl : s = t := Host.Outcome.next.inj ((engineStep_paused hp).symm.trans hx)
    simp [hp] at ht
  | tick =>
    cases hx
    rw [State.tick_paused, hp] at ht
    cases ht
  | keyPress k => exact .inl ⟨k, rfl⟩
  | reset => exact .inr (.inl rfl)
  | boot image => exact .inr (.inr ⟨image, rfl⟩)

end Sys2Proof.Machine

/-! SUPPORT. A canonical memory is determined by its contents (spec/10_state.md R40, R42; log entry 2). -/

namespace Sys2Proof.Machine

open Sys2Proof

/-- In a canonical memory a cell is listed exactly where its content is not what the unlisted cell holds. -/
theorem Memory.lookup_eq_of_content {m : Memory} (hm : Memory.wf m = true) (a : Nat) :
    Memory.lookup m a = if Memory.content m a = Memory.unlisted a then none else Memory.content m a := by
  cases hl : Memory.lookup m a with
  | none => simp [Memory.content, hl]
  | some b => simp [Memory.content, hl, (Memory.lookup_ne_unlisted hm hl).symm]

/-- The first entry of a canonical memory has the least address that is listed. -/
theorem Memory.head_le_of_lookup {lo a k : Nat} {b c : Byte} {m : Memory}
    (hm : Memory.wfFrom lo ((a, b) :: m) = true) (hk : Memory.lookup ((a, b) :: m) k = some c) : a ≤ k := by
  by_contra hlt
  have hfrom : Memory.wfFrom a ((a, b) :: m) = true := Memory.wfFrom_cons.mpr ⟨le_rfl, (Memory.wfFrom_cons.mp hm).2⟩
  simp [Memory.lookup_below hfrom (Nat.lt_of_not_le hlt)] at hk

theorem Memory.lookup_head (a : Nat) (b : Byte) (m : Memory) : Memory.lookup ((a, b) :: m) a = some b :=
  if_pos rfl

/-- Two canonical memories with the same listed contents are the same list: each has its least listed address at
its head, so the heads agree, and neither tail lists that address again. -/
theorem Memory.eq_of_lookup_eq {lo : Nat} {m₁ m₂ : Memory} (h₁ : Memory.wfFrom lo m₁ = true)
    (h₂ : Memory.wfFrom lo m₂ = true) (h : ∀ k, Memory.lookup m₁ k = Memory.lookup m₂ k) : m₁ = m₂ := by
  induction m₁ generalizing lo m₂ with
  | nil =>
    cases m₂ with
    | nil => rfl
    | cons c₂ m₂ => exact nomatch (h c₂.1).trans (Memory.lookup_head c₂.1 c₂.2 m₂)
  | cons c₁ m₁ ih =>
    obtain ⟨a₁, b₁⟩ := c₁
    have head₁ := Memory.lookup_head a₁ b₁ m₁
    cases m₂ with
    | nil => exact nomatch head₁.symm.trans (h a₁)
    | cons c₂ m₂ =>
      obtain ⟨a₂, b₂⟩ := c₂
      have head₂ := Memory.lookup_head a₂ b₂ m₂
      obtain rfl : a₁ = a₂ := Nat.le_antisymm (Memory.head_le_of_lookup h₁ ((h a₂).trans head₂))
        (Memory.head_le_of_lookup h₂ ((h a₁).symm.trans head₁))
      obtain rfl : b₁ = b₂ := Option.some.inj (head₁.symm.trans ((h a₁).trans head₂))
      obtain ⟨-, -, -, tail₁⟩ := Memory.wfFrom_cons.mp h₁
      obtain ⟨-, -, -, tail₂⟩ := Memory.wfFrom_cons.mp h₂
      have htails : ∀ k, Memory.lookup m₁ k = Memory.lookup m₂ k := by
        intro k
        by_cases hk : a₁ = k
        · rw [Memory.lookup_below tail₁ (by omega), Memory.lookup_below tail₂ (by omega)]
        · simpa [Memory.lookup, hk] using h k
      rw [ih tail₁ tail₂ htails]

/-- Settles O57: the contents determine the listed cells, and these the list. -/
theorem canonicalMemoryIsUnique : Obligations.CanonicalMemoryIsUnique := by
  intro m₁ m₂ h₁ h₂ h
  refine Memory.eq_of_lookup_eq h₁ h₂ fun a => ?_
  rw [Memory.lookup_eq_of_content h₁, Memory.lookup_eq_of_content h₂, h a]

end Sys2Proof.Machine

/-! SUPPORT. Which bytes of memory an instruction leaves unchanged, what a store leaves for the next fetch, and a fetch
beyond memory (spec/20_memory.md R52 to R54, R57, R63). -/

namespace Sys2Proof.Machine

open Sys2Proof

/-! ### What a block store leaves in memory -/

theorem memKeptBut_writeFrom (s : State) (base : Nat) (bs : List Byte) :
    MemKeptBut s (s.setMem (Memory.writeFrom s.mem base bs)) base bs.length := by
  intro a ha
  rw [State.setMem_readByte, Memory.read_writeFrom, if_neg (by omega)]
  rfl

/-- Only a store writes memory, and it writes the bytes from `I` up that `storedBytes` counts. -/
theorem Effect.memKeptBut {i : Instr} {s t : State} (h : Effect i s t) :
    MemKeptBut s t s.ireg.toNat (storedBytes i) := by
  cases h with
  | stored _ bs _ hl _ => exact hl ▸ memKeptBut_writeFrom s _ bs
  | _ => exact fun _ _ => rfl

/-- Settles O35: of the effects of an instruction only `stored` writes memory. -/
theorem memoryFrame : Obligations.MemoryFrame :=
  fun i s t h => (exec_effect i s t h).memKeptBut

/-! ### What the next fetch sees of a store -/

section

variable (s : State) {bs : List Byte} {f : Nat → Byte} {n : Nat}

theorem State.readByte_writeFrom (hn : bs.length = n) (hf : ∀ k, k < n → bs.getD k 0#8 = f k) (base a : Nat) :
    (s.setMem (Memory.writeFrom s.mem base bs)).readByte a = byteAfter s base n f a := by
  subst hn
  rw [State.setMem_readByte, Memory.read_writeFrom, byteAfter]
  split
  · next hin => exact hf (a - base) (by omega)
  · rfl

/-- The fetch after a block store reads both its bytes from the memory that the store left. -/
theorem State.fetchWord_writeFrom (hn : bs.length = n) (hf : ∀ k, k < n → bs.getD k 0#8 = f k) (base : Nat)
    {p : Word} (hp : p.toNat ≤ 0x0FFE) :
    ((s.setMem (Memory.writeFrom s.mem base bs)).setPc p).fetchWord =
      some (wordOfBytes (byteAfter s base n f p.toNat) (byteAfter s base n f (p.toNat + 1))) := by
  rw [State.fetchWord_some _ hp]
  simp only [State.setPc_pc, State.setPc_readByte, s.readByte_writeFrom hn hf]

end

/-- `FX55` with its block in range stores `V[0]` to `V[X]` from `I` up (R191). -/
theorem exec_storeRegs_inRange {s : State} {x : RegIdx} (h : s.ireg.toNat + x.toNat ≤ 0x0FFF) :
    exec (.storeRegs x) s = .next (s.setMem (Memory.writeFrom s.mem s.ireg.toNat (s.regsUpTo x))) := by
  have hr : s.ireg.toNat + (s.regsUpTo x).length ≤ Config.memSize := by
    simp only [State.length_regsUpTo, Config.memSize]
    omega
  rw [exec, execStoreRegs, s.writeBlock_some (.inr hr)]

/-- `FX33` with its block in range stores the three decimal digits of `V[X]` from `I` up (R190). -/
theorem exec_ldB_inRange {s : State} {x : RegIdx} (h : s.ireg.toNat + 2 ≤ 0x0FFF) :
    exec (.ldB x) s = .next (s.setMem (Memory.writeFrom s.mem s.ireg.toNat (decimalDigits (s.reg x)))) := by
  have hr : s.ireg.toNat + (decimalDigits (s.reg x)).length ≤ Config.memSize := by
    simp only [length_decimalDigits, Config.memSize]
    omega
  rw [exec, execLdB, s.writeBlock_some (.inr hr)]

/-- The decimal digits as a block: byte k is the digit of the hundreds, the tens, the ones (R190). -/
theorem getD_decimalDigits (a : Byte) {k : Nat} (h : k < 3) :
    (decimalDigits a).getD k 0#8 =
      BitVec.ofNat 8 (a.toNat / (if k = 0 then 100 else if k = 1 then 10 else 1) % 10) := by
  have ha : a.toNat / 100 < 10 := by have := a.isLt; omega
  match k, h with
  | 0, _ => simp [decimalDigits, Nat.mod_eq_of_lt ha]
  | 1, _ => rfl
  | 2, _ => simp [decimalDigits]

/-- Settles O46: the bytes that each of the two instructions stores are those of `byteAfter`, and the fetch reads them. -/
theorem storeIsSeenByTheNextFetch : Obligations.StoreIsSeenByTheNextFetch := by
  intro s x p hp
  constructor
  · intro h
    have hregs : ∀ k, k < x.toNat + 1 → (s.regsUpTo x).getD k 0#8 = s.reg (BitVec.ofNat 4 k) :=
      fun k hk => s.getD_regsUpTo x (Nat.le_of_lt_succ hk)
    exact ⟨_, exec_storeRegs_inRange h, s.fetchWord_writeFrom (s.length_regsUpTo x) hregs _ hp⟩
  · intro h
    exact ⟨_, exec_ldB_inRange h,
      s.fetchWord_writeFrom (length_decimalDigits _) (fun _ hk => getD_decimalDigits (s.reg x) hk) _ hp⟩

/-! ### A fetch beyond memory -/

/-- Settles O42: the fetch answers no word, so the unscheduled step raises `AddressError` before `pc` advances. -/
theorem fetchBeyondMemoryHalts : Obligations.FetchBeyondMemoryHalts := by
  intro s hs hh hp hpc
  refine ⟨_, ?_, s.raise_raised .addressError 0x0000#16 s.pc, rfl⟩
  rw [step_engine hs, engineStep_fetchError hh hp (s.fetchWord_none hpc)]

end Sys2Proof.Machine

/-! SUPPORT. The decoder against the encoder and against the opcode map (spec/30_encoding.md R82 to R91). -/

namespace Sys2Proof

section

variable {w : Word}

/-! ### A word put together from its fields (R82) -/

theorem nibbles_of_fields {g n : Nibble} (hg : fieldG w = g) (hn : fieldN w = n) :
    g ++ fieldX w ++ fieldY w ++ n = w := by
  subst hg hn
  simp only [fieldG, fieldX, fieldY, fieldN]
  rw [BitVec.extractLsb'_append_extractLsb'_eq_extractLsb' (rfl : 12 = 8 + 4),
    BitVec.extractLsb'_append_extractLsb'_eq_extractLsb' (rfl : 8 = 4 + 4),
    BitVec.extractLsb'_append_extractLsb'_eq_extractLsb' (rfl : 4 = 0 + 4)]
  exact BitVec.extractLsb'_eq_self

theorem byte_of_fields {g : Nibble} {nn : Byte} (hg : fieldG w = g) (hn : fieldNN w = nn) :
    g ++ fieldX w ++ nn = w := by
  subst hg hn
  simp only [fieldG, fieldX, fieldNN]
  rw [BitVec.extractLsb'_append_extractLsb'_eq_extractLsb' (rfl : 12 = 8 + 4),
    BitVec.extractLsb'_append_extractLsb'_eq_extractLsb' (rfl : 8 = 0 + 8)]
  exact BitVec.extractLsb'_eq_self

theorem addr_of_fields {g : Nibble} {nnn : Addr12} (hg : fieldG w = g) (hn : fieldNNN w = nnn) : g ++ nnn = w := by
  subst hg hn
  simp only [fieldG, fieldNNN]
  rw [BitVec.extractLsb'_append_extractLsb'_eq_extractLsb' (rfl : 12 = 0 + 12)]
  exact BitVec.extractLsb'_eq_self

/-- Within a group a word is determined by its low 12 bits. -/
theorem eq_addr_iff {g : Nibble} (hg : fieldG w = g) (nnn : Addr12) : w = (g ++ nnn : BitVec 16) ↔ fieldNNN w = nnn :=
  ⟨fun h => h ▸ fieldNNN_addr g nnn, fun h => (addr_of_fields hg h).symm⟩

/-! ### The dispatch on the group selector (R84) -/

theorem decodeGroup_of_group8 (h : fieldG w = 0x8#4) : decodeGroup w = decodeGroup8 w := by
  rw [decodeGroup, h]; rfl

theorem decodeGroup_of_groupE (h : fieldG w = 0xE#4) : decodeGroup w = decodeGroupE w := by
  rw [decodeGroup, h]; rfl

theorem decodeGroup_of_groupF (h : fieldG w = 0xF#4) : decodeGroup w = decodeGroupF w := by
  rw [decodeGroup, h]; rfl

theorem decodeWord_eq_ok {i : Instr} : decodeWord w = .ok i ↔ decodeGroup w = some i := by
  unfold decodeWord
  split <;> simp [*]

theorem decodeWord_eq_error : decodeWord w = .error (.illegalWord w) ↔ decodeGroup w = none := by
  unfold decodeWord
  split <;> simp [*]

/-! ### Decoding the word of an instruction -/

theorem decodeGroup_encode (i : Instr) : decodeGroup (encode i) = some i := by
  cases i with
  | ldReg x y | orReg x y | andReg x y | xorReg x y | addReg x y | subReg x y | shr x y | subn x y | shl x y =>
    rw [encode, decodeGroup_of_group8 (fieldG_nibbles _ _ _ _), decodeGroup8, fieldX_nibbles, fieldY_nibbles,
      fieldN_nibbles]
    rfl
  | seReg x y u | sneReg x y u | drw x y u =>
    rw [encode, decodeGroup, fieldG_nibbles, fieldX_nibbles, fieldY_nibbles, fieldN_nibbles]
    rfl
  | seImm x nn | sneImm x nn | ldImm x nn | addImm x nn | rnd x nn =>
    rw [encode, decodeGroup, fieldG_byte, fieldX_byte, fieldNN_byte]
    rfl
  | jp nnn | call nnn | jpV0 nnn | ldI nnn =>
    rw [encode, decodeGroup, fieldG_addr, fieldNNN_addr]
    rfl
  | skp x | sknp x =>
    rw [encode, decodeGroup_of_groupE (fieldG_byte _ _ _), decodeGroupE, fieldX_byte, fieldNN_byte]
    rfl
  | addI x | ldVxDT x | ldDT x | ldST x | ldF x | ldB x | storeRegs x | loadRegs x | ldK x =>
    rw [encode, decodeGroup_of_groupF (fieldG_byte _ _ _), decodeGroupF, fieldX_byte, fieldNN_byte]
    rfl
  | cls | ret => rfl

/-! ### The word of a decoded instruction -/

theorem encode_of_decodeGroup0 {i : Instr} (h : decodeGroup0 w = some i) : encode i = w := by
  unfold decodeGroup0 at h
  split_ifs at h with hcls hret <;> cases h
  · exact hcls.symm
  · exact hret.symm

theorem encode_of_decodeGroup8 {i : Instr} (hg : fieldG w = 0x8#4) (h : decodeGroup8 w = some i) : encode i = w := by
  unfold decodeGroup8 at h
  split at h <;> cases h
  all_goals
    next hn => exact nibbles_of_fields hg (BitVec.eq_of_toNat_eq hn)

theorem encode_of_decodeGroupE {i : Instr} (hg : fieldG w = 0xE#4) (h : decodeGroupE w = some i) : encode i = w := by
  unfold decodeGroupE at h
  split_ifs at h with hskp hsknp <;> cases h
  · exact byte_of_fields hg hskp
  · exact byte_of_fields hg hsknp

theorem encode_of_decodeGroupF {i : Instr} (hg : fieldG w = 0xF#4) (h : decodeGroupF w = some i) : encode i = w := by
  simp only [decodeGroupF] at h
  split_ifs at h <;> cases h
  all_goals
    next hnn => exact byte_of_fields hg hnn

/-- A word that is dispatched to an instruction is laid out as that instruction's word: by cases on its group. -/
theorem encode_of_decodeGroup {i : Instr} (h : decodeGroup w = some i) : encode i = w := by
  unfold decodeGroup at h
  split at h
  case h_1 => exact encode_of_decodeGroup0 h
  case h_9 hg => exact encode_of_decodeGroup8 (BitVec.eq_of_toNat_eq hg) h
  case h_15 hg => exact encode_of_decodeGroupE (BitVec.eq_of_toNat_eq hg) h
  case h_16 hg => exact encode_of_decodeGroupF (BitVec.eq_of_toNat_eq hg) h
  case h_17 => cases h
  case h_6 hg | h_10 hg | h_14 hg =>
    cases h
    exact nibbles_of_fields (BitVec.eq_of_toNat_eq hg) rfl
  case h_4 hg | h_5 hg | h_7 hg | h_8 hg | h_13 hg =>
    cases h
    exact byte_of_fields (BitVec.eq_of_toNat_eq hg) rfl
  case h_2 hg | h_3 hg | h_11 hg | h_12 hg =>
    cases h
    exact addr_of_fields (BitVec.eq_of_toNat_eq hg) rfl

/-! ### The words that the dispatch rejects (R87, R90) -/

theorem decodeGroup0_eq_none (hg : fieldG w = 0x0#4) :
    decodeGroup0 w = none ↔ fieldNNN w ∉ [0x0E0#12, 0x0EE#12] := by
  have hcls : w = 0x00E0#16 ↔ fieldNNN w = 0x0E0#12 := eq_addr_iff hg 0x0E0#12
  have hret : w = 0x00EE#16 ↔ fieldNNN w = 0x0EE#12 := eq_addr_iff hg 0x0EE#12
  simp only [decodeGroup0, hcls, hret]
  split_ifs <;> simp [*]

theorem decodeGroup8_eq_none :
    decodeGroup8 w = none ↔ fieldN w ∈ [0x8#4, 0x9#4, 0xA#4, 0xB#4, 0xC#4, 0xD#4, 0xF#4] := by
  have hlt := (fieldN w).isLt
  simp only [decodeGroup8, List.mem_cons, List.not_mem_nil, or_false, BitVec.toNat_eq, BitVec.toNat_ofNat]
  split
  case h_10 =>
    simp only [imp_false, true_iff] at *
    omega
  all_goals simp [*]

theorem decodeGroupE_eq_none : decodeGroupE w = none ↔ fieldNN w ∉ [0x9E#8, 0xA1#8] := by
  unfold decodeGroupE
  split_ifs <;> simp [*]

theorem decodeGroupF_eq_none : decodeGroupF w = none ↔
    fieldNN w ∉ [0x07#8, 0x0A#8, 0x15#8, 0x18#8, 0x1E#8, 0x29#8, 0x33#8, 0x55#8, 0x65#8] := by
  simp only [decodeGroupF]
  split_ifs <;> simp [*]

/-! ### The opcode map (R86) -/

theorem legalWord_iff : legalWord w = true ↔ ∃ r ∈ opcodeMap, r.selects w = true := List.any_eq_true

section

variable {r : OpcodeRow}

theorem OpcodeRow.selects_iff : r.selects w = true ↔ w &&& r.mask = r.pattern := beq_iff_eq

/-- A field that the mask covers is, in a selected word, that of the match value. -/
theorem OpcodeRow.field_of_selects {start len : Nat} (hs : r.selects w = true)
    (hm : r.mask.extractLsb' start len = BitVec.allOnes len) :
    w.extractLsb' start len = r.pattern.extractLsb' start len := by
  rw [← selects_iff.mp hs, BitVec.extractLsb'_and, hm, BitVec.and_allOnes]

/-- Every mask covers the group selector. -/
theorem fieldG_of_selects (hr : r ∈ opcodeMap) (hs : r.selects w = true) : fieldG w = fieldG r.pattern :=
  have hmask : ∀ r ∈ opcodeMap, fieldG r.mask = BitVec.allOnes 4 := by decide
  r.field_of_selects hs (hmask r hr)

theorem fieldN_of_selects (hs : r.selects w = true) (hm : fieldN r.mask = BitVec.allOnes 4) :
    fieldN w = fieldN r.pattern :=
  r.field_of_selects hs hm

theorem fieldNN_of_selects (hs : r.selects w = true) (hm : fieldNN r.mask = BitVec.allOnes 8) :
    fieldNN w = fieldNN r.pattern :=
  r.field_of_selects hs hm

theorem fieldNNN_of_selects (hs : r.selects w = true) (hm : fieldNNN r.mask = BitVec.allOnes 12) :
    fieldNNN w = fieldNNN r.pattern :=
  r.field_of_selects hs hm

end

/-- Rows that agree on the bits both examine are the same row: "the masks are disjoint". -/
theorem opcodeMap_disjoint : ∀ r₁ ∈ opcodeMap, ∀ r₂ ∈ opcodeMap,
    r₁.pattern &&& r₂.mask = r₂.pattern &&& r₁.mask → r₁ = r₂ := by
  decide

/-! In the four groups with a sub-selector every row examines the whole of it, and matches no value of it that R90
calls illegal. -/

theorem opcodeMap_group0 : ∀ r ∈ opcodeMap, fieldG r.pattern = 0x0#4 →
    fieldNNN r.mask = BitVec.allOnes 12 ∧ fieldNNN r.pattern ∈ [0x0E0#12, 0x0EE#12] := by
  decide

theorem opcodeMap_group8 : ∀ r ∈ opcodeMap, fieldG r.pattern = 0x8#4 →
    fieldN r.mask = BitVec.allOnes 4 ∧ fieldN r.pattern ∉ [0x8#4, 0x9#4, 0xA#4, 0xB#4, 0xC#4, 0xD#4, 0xF#4] := by
  decide

theorem opcodeMap_groupE : ∀ r ∈ opcodeMap, fieldG r.pattern = 0xE#4 →
    fieldNN r.mask = BitVec.allOnes 8 ∧ fieldNN r.pattern ∈ [0x9E#8, 0xA1#8] := by
  decide

theorem opcodeMap_groupF : ∀ r ∈ opcodeMap, fieldG r.pattern = 0xF#4 →
    fieldNN r.mask = BitVec.allOnes 8 ∧
      fieldNN r.pattern ∈ [0x07#8, 0x0A#8, 0x15#8, 0x18#8, 0x1E#8, 0x29#8, 0x33#8, 0x55#8, 0x65#8] := by
  decide

open Laws.EncodesInRow in
theorem encode_selects_its_row (i : Instr) : Statement i := by
  cases i
  exacts [ldReg _ _, orReg _ _, andReg _ _, xorReg _ _, addReg _ _, subReg _ _, shr _ _, subn _ _, shl _ _,
    seImm _ _, sneImm _ _, seReg _ _ _, sneReg _ _ _, jp _, call _, ret, jpV0 _, ldImm _ _, addImm _ _, ldI _, addI _,
    rnd _ _, drw _ _ _, cls, skp _, sknp _, ldVxDT _, ldDT _, ldST _, ldF _, ldB _, storeRegs _, loadRegs _, ldK _]

theorem legalWord_encode (i : Instr) : legalWord (encode i) = true := by
  obtain ⟨r, hr, -, hs⟩ := encode_selects_its_row i
  exact legalWord_iff.mpr ⟨r, hr, hs⟩

end

/-! ### The obligations -/

/-- Settles O1: whatever the fields hold, the dispatch reads back the selectors and fields that `encode` laid out. -/
theorem decodeOfEncode : Obligations.DecodeOfEncode :=
  fun i => decodeWord_eq_ok.mpr (decodeGroup_encode i)

/-- Settles O2: the selectors and the fields that the dispatch reads are the whole of the word. -/
theorem encodeOfDecode : Obligations.EncodeOfDecode :=
  fun _ _ h => encode_of_decodeGroup (decodeWord_eq_ok.mp h)

/-- Settles O3, by cases on the group: four have a sub-selector, and every word of another group is dispatched. -/
theorem rejectedWordsAreTheIllegalOnes : Obligations.RejectedWordsAreTheIllegalOnes := by
  intro w
  have hlt := (fieldG w).isLt
  rw [decodeWord_eq_error, decodeGroup]
  split
  case h_1 hg =>
    have hg : fieldG w = 0x0#4 := BitVec.eq_of_toNat_eq hg
    simp [decodeGroup0_eq_none hg, hg]
  case h_9 hg =>
    have hg : fieldG w = 0x8#4 := BitVec.eq_of_toNat_eq hg
    simp [decodeGroup8_eq_none, hg]
  case h_15 hg =>
    have hg : fieldG w = 0xE#4 := BitVec.eq_of_toNat_eq hg
    simp [decodeGroupE_eq_none, hg]
  case h_16 hg =>
    have hg : fieldG w = 0xF#4 := BitVec.eq_of_toNat_eq hg
    simp [decodeGroupF_eq_none, hg]
  case h_17 =>
    simp only [imp_false] at *
    omega
  all_goals
    next hg => simp [BitVec.toNat_eq, hg]

/-- A row that selects a word has the word's group, and a word that the dispatch rejects has a sub-selector that no row
of its group matches. -/
theorem legalWord_eq_false_of_rejected {w : Word} (h : decodeWord w = .error (.illegalWord w)) :
    legalWord w = false := by
  rw [Bool.eq_false_iff]
  intro hl
  obtain ⟨r, hr, hs⟩ := legalWord_iff.mp hl
  have hrow := fieldG_of_selects hr hs
  rcases (rejectedWordsAreTheIllegalOnes w).mp h with ⟨hg, hn⟩ | ⟨hg, hn⟩ | ⟨hg, hn⟩ | ⟨hg, hn⟩
  · obtain ⟨hm, hp⟩ := opcodeMap_group0 r hr (hrow.symm.trans hg)
    exact hn (fieldNNN_of_selects hs hm ▸ hp)
  · obtain ⟨hm, hp⟩ := opcodeMap_group8 r hr (hrow.symm.trans hg)
    exact hp (fieldN_of_selects hs hm ▸ hn)
  · obtain ⟨hm, hp⟩ := opcodeMap_groupE r hr (hrow.symm.trans hg)
    exact hn (fieldNN_of_selects hs hm ▸ hp)
  · obtain ⟨hm, hp⟩ := opcodeMap_groupF r hr (hrow.symm.trans hg)
    exact hn (fieldNN_of_selects hs hm ▸ hp)

/-- Settles O4: a decoded word is an instruction's own word, which a row selects; no row selects a rejected word. -/
theorem dispatchAgreesWithOpcodeMap : Obligations.DispatchAgreesWithOpcodeMap := by
  intro w
  constructor
  · rintro ⟨i, h⟩
    rw [← encodeOfDecode w i h]
    exact legalWord_encode i
  · intro hl
    cases h : decodeGroup w with
    | some i => exact ⟨i, decodeWord_eq_ok.mpr h⟩
    | none => simp [legalWord_eq_false_of_rejected (decodeWord_eq_error.mpr h)] at hl

/-- Settles O5: two rows that select one word agree with it, and so with each other, on the bits both examine. -/
theorem atMostOneRowSelects : Obligations.AtMostOneRowSelects := by
  intro w r₁ h₁ r₂ h₂ hs₁ hs₂
  refine opcodeMap_disjoint r₁ h₁ r₂ h₂ ?_
  calc r₁.pattern &&& r₂.mask
    _ = w &&& r₁.mask &&& r₂.mask := by rw [OpcodeRow.selects_iff.mp hs₁]
    _ = w &&& r₂.mask &&& r₁.mask := by rw [BitVec.and_assoc, BitVec.and_comm r₁.mask, ← BitVec.and_assoc]
    _ = r₂.pattern &&& r₁.mask := by rw [OpcodeRow.selects_iff.mp hs₂]

/-- Settles O6: each word is decoded by evaluation. -/
theorem sampleWordsDecode : Obligations.SampleWordsDecode := by
  unfold Obligations.SampleWordsDecode
  decide

end Sys2Proof

/-! SUPPORT. The values and the flags of the arithmetic and logic group, and how an instruction that writes one
register, or one register and VF, completes (spec/40_alu.md R110 to R118). -/

namespace Sys2Proof.Machine

open Sys2Proof

/-! ### How a register write completes -/

theorem restKept_setReg (s : State) (x : RegIdx) (b : Byte) : RestKept s (s.setReg x b) :=
  ⟨⟨rfl, ⟨rfl, rfl, rfl⟩, rfl, rfl, fun _ => rfl, rfl, rfl, rfl, rfl⟩, rfl⟩

theorem completesReg_of_exec {i : Instr} {s : State} {x : RegIdx} {b : Byte}
    (h : exec i s = .next (s.setReg x b)) : CompletesReg i s x b :=
  ⟨_, h, s.reg_setReg_same x b, regsKept_setReg s b (List.mem_singleton_self x), rfl, restKept_setReg s x b⟩

/-- A flag and a result are two register writes, the second to x (R22). -/
theorem completesFlagged_of_exec {i : Instr} {s : State} {x : RegIdx} {b b' f f' : Byte}
    (h : exec i s = .next (s.setFlagged x f b)) (hb : b = b') (hf : f = f') : CompletesFlagged i s x b' f' := by
  subst hb hf
  have hflag : x ≠ vf → (s.setFlagged x f b).reg vf = f := fun hx => by
    rw [State.setFlagged_reg, if_neg hx.symm, if_pos rfl]
  exact ⟨_, h, (s.setReg vf f).reg_setReg_same x b, hflag, regsKept_setFlagged s x f b, rfl,
    restKept_setReg (s.setReg vf f) x b⟩

/-! ### Results as numbers modulo 256 -/

theorem add_eq_ofNat (a b : Byte) : a + b = BitVec.ofNat 8 ((a.toNat + b.toNat) % 256) :=
  BitVec.eq_of_toNat_eq (by simp)

/-- A difference wraps as if 256 were borrowed (R115). -/
theorem sub_eq_ofNat (a b : Byte) : a - b = BitVec.ofNat 8 ((a.toNat + 256 - b.toNat) % 256) := by
  have hb := b.isLt
  apply BitVec.eq_of_toNat_eq
  simp only [BitVec.toNat_sub, BitVec.toNat_ofNat]
  omega

theorem shiftRight_one_eq_ofNat (a : Byte) : a >>> 1 = BitVec.ofNat 8 (a.toNat / 2) := by
  have ha := a.isLt
  apply BitVec.eq_of_toNat_eq
  simp only [BitVec.toNat_ushiftRight, BitVec.toNat_ofNat, Nat.shiftRight_one]
  omega

theorem shiftLeft_one_eq_ofNat (a : Byte) : a <<< 1 = BitVec.ofNat 8 (2 * a.toNat % 256) :=
  BitVec.eq_of_toNat_eq (by simp [Nat.shiftLeft_eq, Nat.mul_comm])

/-! ### Flags as numbers -/

theorem flagOf_decide (p : Prop) [Decidable p] : flagOf (decide p) = if p then 1#8 else 0#8 := by
  simp [flagOf]

theorem addFlag_eq (a b : Byte) : addFlag a b = if a.toNat + b.toNat > 255 then 1#8 else 0#8 :=
  flagOf_decide _

theorem subFlag_eq (a b : Byte) : subFlag a b = if a.toNat > b.toNat then 1#8 else 0#8 :=
  flagOf_decide _

theorem shrFlag_eq (a : Byte) : shrFlag a = BitVec.ofNat 8 (a.toNat % 2) := by
  have hlt : a.toNat % 2 < 256 := by omega
  exact BitVec.eq_of_toNat_eq (by simp [shrFlag, Nat.mod_eq_of_lt hlt])

/-- Bit 7 is set exactly in the bytes from 128 up. -/
theorem shlFlag_eq (a : Byte) : shlFlag a = if a.toNat ≥ 128 then 0x80#8 else 0x00#8 := by
  have hbit : a.getLsbD 7 = decide (128 ≤ a.toNat) := a.msb_eq_decide
  calc a &&& BitVec.twoPow 8 7
    _ = if a.getLsbD 7 then BitVec.twoPow 8 7 else 0#8 := BitVec.and_twoPow a 7
    _ = if a.toNat ≥ 128 then 0x80#8 else 0x00#8 := if_congr (by rw [hbit, decide_eq_true_eq]) rfl rfl

/-! ### The obligations -/

/-- Settles O7: each of the four writes its value to x and nothing else. -/
theorem copyAndLogicResults : Obligations.CopyAndLogicResults :=
  fun _ _ _ =>
    ⟨completesReg_of_exec rfl, completesReg_of_exec rfl, completesReg_of_exec rfl, completesReg_of_exec rfl⟩

/-- Settles O8: the flag is the carry and the result the wrapped sum. -/
theorem addResultAndCarry : Obligations.AddResultAndCarry :=
  fun _ _ _ => completesFlagged_of_exec rfl (add_eq_ofNat _ _) (addFlag_eq _ _)

/-- Settles O9: the flag is the strict comparison and the result the wrapped difference. -/
theorem subResultAndFlag : Obligations.SubResultAndFlag :=
  fun _ _ _ => completesFlagged_of_exec rfl (sub_eq_ofNat _ _) (subFlag_eq _ _)

/-- Settles O10: the flag is the bit shifted out and the result the half; `exec` drops Y. -/
theorem shrResultAndFlag : Obligations.ShrResultAndFlag :=
  fun _ _ _ => completesFlagged_of_exec rfl (shiftRight_one_eq_ofNat _) (shrFlag_eq _)

/-- Settles O11: SUB's flag and result with the operands exchanged. -/
theorem subnResultAndFlag : Obligations.SubnResultAndFlag :=
  fun _ _ _ => completesFlagged_of_exec rfl (sub_eq_ofNat _ _) (subFlag_eq _ _)

/-- Settles O12: the flag is the bit shifted out, in its place, and the result the wrapped double; `exec` drops Y. -/
theorem shlResultAndFlag : Obligations.ShlResultAndFlag :=
  fun _ _ _ => completesFlagged_of_exec rfl (shiftLeft_one_eq_ofNat _) (shlFlag_eq _)

end Sys2Proof.Machine

/-! SUPPORT. How an instruction that writes only `pc` completes, and where the comparison and skip group leaves `pc`
(spec/41_skip.md R130 to R134). -/

namespace Sys2Proof.Machine

open Sys2Proof

theorem restKept_setPc (s : State) (p : Word) : RestKept s (s.setPc p) :=
  ⟨⟨rfl, ⟨rfl, rfl, rfl⟩, rfl, rfl, fun _ => rfl, rfl, rfl, rfl, rfl⟩, rfl⟩

section

variable {i : Instr} {s : State}

theorem completesPc_of_exec {p : Word} (h : exec i s = .next (s.setPc p)) : CompletesPc i s p :=
  ⟨_, h, s.setPc_pc p, fun r _ => s.setPc_reg p r, restKept_setPc s p⟩

variable {c : Prop} [Decidable c]

/-- A skip on `c` moves `pc` two further exactly when `c` holds (R134). -/
theorem completesPc_of_skipIf (h : exec i s = .next (s.skipIf (decide c))) :
    CompletesPc i s (if c then s.pc + 2#16 else s.pc) := by
  rw [State.skipIf_eq] at h
  simp only [decide_eq_true_eq] at h
  exact completesPc_of_exec h

/-- A skip on the negation of `c` leaves `pc` in place exactly when `c` holds (R134). -/
theorem completesPc_of_skipIf_not (h : exec i s = .next (s.skipIf (decide ¬c))) :
    CompletesPc i s (if c then s.pc else s.pc + 2#16) := by
  rw [← ite_not]
  exact completesPc_of_skipIf h

end

/-! ### The obligations -/

/-- Settles O13: SE skips on the equality of the register and the byte, SNE on its negation. -/
theorem immediateSkips : Obligations.ImmediateSkips :=
  fun _ _ _ => ⟨completesPc_of_skipIf rfl, completesPc_of_skipIf_not rfl⟩

/-- Settles O14: SE skips on the equality of the two registers, SNE on its negation; `exec` drops the low nibble. -/
theorem registerSkips : Obligations.RegisterSkips :=
  fun _ _ _ _ => ⟨completesPc_of_skipIf rfl, completesPc_of_skipIf_not rfl⟩

end Sys2Proof.Machine

/-! SUPPORT. Where the jumps leave `pc`, and what a call and a return answer with room on the stack and without
(spec/42_control_flow.md R141 to R145). -/

namespace Sys2Proof.Machine

open Sys2Proof

/-! ### The targets of the jumps as numbers -/

theorem addrOperand_eq_ofNat (nnn : Addr12) : addrOperand nnn = BitVec.ofNat 16 nnn.toNat :=
  (BitVec.ofNat_toNat 16 nnn).symm

theorem indexedTarget_eq_ofNat (s : State) (nnn : Addr12) :
    s.indexedTarget nnn = BitVec.ofNat 16 (nnn.toNat + (s.reg 0#4).toNat) := by
  rw [State.indexedTarget, addrOperand_eq_ofNat, ← BitVec.ofNat_toNat, BitVec.ofNat_add]

/-! ### How an instruction that raises completes -/

/-- The record of a fatal error holds the instruction's own word and the address two before `pc` (R231, R236). -/
theorem raisesIn_of_exec {i : Instr} {s : State} {c : ErrorCause} (h : exec i s = s.raiseIn c i) :
    RaisesIn i s c.code (encode i) :=
  ⟨_, h, s.raise_raised c (encode i) s.fetchAddr, rfl⟩

/-! ### Call and return -/

section

variable {s : State}

theorem exec_call_of_lt (nnn : Addr12) (h : s.stack.length < Config.stackDepth) :
    exec (.call nnn) s = .next ((s.setStack (s.stack ++ [s.pc])).setPc (addrOperand nnn)) := by
  rw [exec, execCall, s.push_some _ h]

theorem exec_call_of_not_lt (nnn : Addr12) (h : ¬ s.stack.length < Config.stackDepth) :
    exec (.call nnn) s = s.raiseIn .stackOverflow (.call nnn) := by
  rw [exec, execCall, s.push_none _ h]

theorem exec_ret_of_concat {l : List Word} {a : Word} (h : s.stack = l ++ [a]) :
    exec .ret s = .next ((s.setStack l).setPc a) := by
  rw [exec, execRet, s.pop_concat h]

theorem exec_ret_of_nil (h : s.stack = []) : exec .ret s = s.raiseIn .stackUnderflow .ret := by
  rw [exec, execRet, s.pop_nil h]

/-- An instruction that writes the stack and `pc` leaves everything else unchanged. -/
theorem completes_setStack_setPc {i : Instr} {l : List Word} {p : Word}
    (h : exec i s = .next ((s.setStack l).setPc p)) :
    ∃ t, exec i s = .next t ∧ t.stack = l ∧ t.pc = p ∧
      RegsKept s t [] ∧ t.ireg = s.ireg ∧ TimersKept s t ∧ t.fb = s.fb ∧ MemKept s t ∧ ControlKept s t :=
  ⟨_, h, rfl, rfl, fun _ _ => rfl, rfl, ⟨rfl, rfl, rfl⟩, rfl, fun _ => rfl, ⟨rfl, rfl, rfl, rfl⟩, rfl⟩

end

/-! ### The obligations -/

/-- Settles O16: the jump writes `pc` alone, and the extended address is the same number. -/
theorem jumpTarget : Obligations.JumpTarget := by
  intro s nnn
  rw [← addrOperand_eq_ofNat]
  exact completesPc_of_exec rfl

/-- Settles O17: the jump writes `pc` alone, and the 16-bit sum of the extended operands is their sum as a number. -/
theorem indexedJumpTarget : Obligations.IndexedJumpTarget := by
  intro s nnn
  rw [← indexedTarget_eq_ofNat]
  exact completesPc_of_exec rfl

/-- Settles O18: below 16 entries the push answers a state, at 16 it answers none and the call raises. -/
theorem callPushesOrOverflows : Obligations.CallPushesOrOverflows := by
  intro s nnn
  constructor
  · intro hlt
    rw [← addrOperand_eq_ofNat]
    exact completes_setStack_setPc (exec_call_of_lt nnn hlt)
  · intro hfull
    exact raisesIn_of_exec (exec_call_of_not_lt nnn hfull.not_lt)

/-- Settles O19: the pop answers the last entry, or none on an empty stack, where the return raises. -/
theorem returnPopsOrUnderflows : Obligations.ReturnPopsOrUnderflows :=
  fun _ =>
    ⟨fun _ _ h => completes_setStack_setPc (exec_ret_of_concat h), fun h => raisesIn_of_exec (exec_ret_of_nil h)⟩

/-- Settles O20: the stack that the call left ends in the pushed `pc`, which the return pops. -/
theorem callThenReturnRestores : Obligations.CallThenReturnRestores :=
  fun _ nnn hlt => ⟨_, exec_call_of_lt nnn hlt, fun _ hu => ⟨_, exec_ret_of_concat hu, rfl, rfl⟩⟩

end Sys2Proof.Machine

/-! SUPPORT. How an instruction that writes only the address register completes, and the loads and adds with an
immediate and on I (spec/43_load_immediate.md R150 to R153). -/

namespace Sys2Proof.Machine

open Sys2Proof

theorem completesI_of_exec {i : Instr} {s : State} {a : Word} (h : exec i s = .next (s.setI a)) : CompletesI i s a :=
  ⟨_, h, s.setI_ireg a, fun r _ => s.setI_reg a r, rfl, ⟨rfl, rfl, rfl⟩, rfl, rfl, s.setI_readByte a,
    ⟨rfl, rfl, rfl, rfl⟩, rfl⟩

/-- The 16-bit sum with the extended byte is the sum of the two numbers modulo 65536. -/
theorem addrPlus_eq_ofNat (s : State) (x : RegIdx) :
    s.addrPlus x = BitVec.ofNat 16 ((s.ireg.toNat + (s.reg x).toNat) % 65536) := by
  apply BitVec.eq_of_toNat_eq
  simp [State.addrPlus]

/-! ### The obligations -/

/-- Settles O21: each writes x alone, by one register write, and the 8-bit sum wraps. -/
theorem immediateLoadAndAdd : Obligations.ImmediateLoadAndAdd := by
  intro s x nn
  constructor
  · exact completesReg_of_exec rfl
  · rw [← add_eq_ofNat]
    exact completesReg_of_exec rfl

/-- Settles O22: each writes I alone, the extended address or the 16-bit sum. -/
theorem addressRegisterLoadAndAdd : Obligations.AddressRegisterLoadAndAdd := by
  intro s x nnn
  constructor
  · rw [← addrOperand_eq_ofNat]
    exact completesI_of_exec rfl
  · rw [← addrPlus_eq_ofNat]
    exact completesI_of_exec rfl

end Sys2Proof.Machine

/-! SUPPORT. The step that executes a decoded word, and the random byte that RND consumes (spec/44_random.md R160, R161;
spec/50_engine_and_interfaces.md R200, R219). -/

namespace Sys2Proof.Machine

open Sys2Proof

/-! ### The step on a word that decodes -/

/-- An unscheduled step of a running machine executes the instruction at `pc` with `pc` advanced (R200, R201). -/
theorem step_of_decodeWord {s : State} {i : Instr} (hs : s.env.schedule = []) (hh : s.halted = false)
    (hp : s.paused = false) (hpc : s.pc.toNat ≤ 0x0FFE)
    (hd : decodeWord (wordOfBytes (s.readByte s.pc.toNat) (s.readByte (s.pc.toNat + 1))) = .ok i) :
    step s = exec i (s.setPc (s.pc + 2#16)) := by
  rw [step_engine hs, engineStep_fetch hh hp (s.fetchWord_some hpc), executeWord_ok hd]

/-! ### RND -/

theorem exec_rnd (s : State) (x : RegIdx) (nn : Byte) :
    exec (.rnd x nn) s = .next ((s.setEnv s.env.nextRnd.2).setReg x (s.env.nextRnd.1 &&& nn)) := rfl

theorem blockKept_setEnv_setReg (s : State) (e : Env) (x : RegIdx) (b : Byte) :
    BlockKept s ((s.setEnv e).setReg x b) :=
  (restKept_setReg (s.setEnv e) x b).1

/-! ### The obligations -/

/-- Settles O23: the byte drawn changes the environment alone, and the masked byte is one register write. -/
theorem randomIsMasked : Obligations.RandomIsMasked :=
  fun s x nn =>
    ⟨_, exec_rnd s x nn, State.reg_setReg_same _ x _, regsKept_setReg (s.setEnv _) _ (List.mem_singleton_self x), rfl,
      blockKept_setEnv_setReg s _ x _, rfl⟩

/-- Settles O24: the step is RND on the state with `pc` advanced, whose byte is the next supplied one or the next free
one. -/
theorem randomByteIsFreshForEachRnd : Obligations.RandomByteIsFreshForEachRnd := by
  intro s x nn hs hh hp hpc hd
  obtain ⟨t, ht, hreg, -, -, -, henv⟩ := randomIsMasked (s.setPc (s.pc + 2#16)) x nn
  rw [← step_of_decodeWord hs hh hp hpc hd] at ht
  rw [State.setPc_env] at hreg henv
  constructor
  · intro b bs hfeed
    rw [Env.nextRnd_supplied hfeed] at hreg henv
    exact ⟨t, ht, hreg, by rw [henv], by rw [henv]⟩
  · intro hfeed
    rw [Env.nextRnd_free hfeed] at hreg henv
    exact ⟨t, ht, hreg, by rw [henv, ← hfeed], by rw [henv]⟩

end Sys2Proof.Machine

/-! SUPPORT. What a draw does to each pixel and when it reports a collision, and how the draw and display group completes
(spec/45_draw.md R165 to R171). -/

namespace Sys2Proof.Machine

open Sys2Proof

/-! ### The sprite of a draw -/

/-- What the blit of a `DXYN` with its sprite in range answers in state `s` (R167): the new frame buffer, and whether any
toggle erased a pixel. -/
def State.drawn (s : State) (x y : RegIdx) (n : Nibble) : FrameBuffer × Bool :=
  drawSprite s.fb (s.reg x).toNat (s.reg y).toNat (Memory.readFrom s.mem s.ireg.toNat n.toNat)

section

variable {s : State} {x y : RegIdx} {n : Nibble}

theorem Touched.bounds {px py : Nat} (h : Touched s x y n px py) : px < 64 ∧ py < 32 := by
  obtain ⟨r, c, -, -, -, hx, hy⟩ := h
  exact ⟨hx ▸ Nat.mod_lt _ (by decide), hy ▸ Nat.mod_lt _ (by decide)⟩

/-- On the display the touched pixels are those that the set bits of the sprite's rows lie on. -/
theorem touched_iff_spriteHits {px py : Nat} (hx : px < 64) (hy : py < 32) :
    Touched s x y n px py ↔
      SpriteHits (s.reg x).toNat (s.reg y).toNat (Memory.readFrom s.mem s.ireg.toNat n.toNat) px py := by
  simp only [Touched, SpriteHits, SamePixel, Memory.getElem?_readFrom, Nat.mod_eq_of_lt hx, Nat.mod_eq_of_lt hy]
  constructor
  · rintro ⟨r, c, hr, hc, hb, rfl, rfl⟩
    exact ⟨r, c, _, if_pos hr, hc, hb, rfl, rfl⟩
  · rintro ⟨r, c, row, hrow, hc, hb, rfl, rfl⟩
    obtain ⟨hr, rfl⟩ : r < n.toNat ∧ Memory.read s.mem (s.ireg.toNat + r) = row := by simpa using hrow
    exact ⟨r, c, hr, hc, hb, rfl, rfl⟩

theorem length_sprite_le : (Memory.readFrom s.mem s.ireg.toNat n.toNat).length ≤ 32 := by
  have := n.isLt
  rw [Memory.length_readFrom]
  omega

/-- A draw inverts exactly the touched pixels (R170 c). -/
theorem State.drawn_pixel {px py : Nat} (hx : px < 64) (hy : py < 32) :
    (Touched s x y n px py → (s.drawn x y n).1.pixel px py = !s.fb.pixel px py) ∧
      (¬ Touched s x y n px py → (s.drawn x y n).1.pixel px py = s.fb.pixel px py) := by
  rw [touched_iff_spriteHits hx hy]
  exact drawSprite_pixel _ _ _ _ length_sprite_le px py

/-- A draw reports an erase when a touched pixel was lit: a pixel that the sprite hits before wrapping is the touched one
of its wrapped coordinates. -/
theorem State.drawn_erased_iff : (s.drawn x y n).2 = true ↔ Collides s x y n := by
  rw [State.drawn, drawSprite_erased _ _ _ _ length_sprite_le]
  constructor
  · rintro ⟨px, py, ⟨r, c, row, hrow, hc, hb, hx, hy⟩, hlit⟩
    have hwrap : SamePixel px py (px % 64) (py % 32) := ⟨Nat.mod_mod px 64, Nat.mod_mod py 32⟩
    refine ⟨px % 64, py % 32, ?_, (s.fb.pixel_congr hwrap).trans hlit⟩
    rw [touched_iff_spriteHits (Nat.mod_lt px (by decide)) (Nat.mod_lt py (by decide))]
    exact ⟨r, c, row, hrow, hc, hb, hwrap.1.trans hx, hwrap.2.trans hy⟩
  · rintro ⟨px, py, ht, hlit⟩
    obtain ⟨hx, hy⟩ := ht.bounds
    exact ⟨px, py, (touched_iff_spriteHits hx hy).mp ht, hlit⟩

/-! ### How a draw completes -/

theorem exec_drw_inRange (h : n = 0#4 ∨ s.ireg.toNat + n.toNat ≤ 0x1000) :
    exec (.drw x y n) s = .next ((s.setFb (s.drawn x y n).1).setReg vf (drawFlag (s.drawn x y n).2)) := by
  rw [exec, execDrw, s.readBlock_some (h.imp_left (congrArg BitVec.toNat))]
  rfl

theorem exec_drw_outOfRange (hn : 1 ≤ n.toNat) (h : s.ireg.toNat + n.toNat - 1 > 0x0FFF) :
    exec (.drw x y n) s = s.raiseIn .addressError (.drw x y n) := by
  rw [exec, execDrw, s.readBlock_none (by simp only [Config.memSize]; omega)]

/-! ### Two equal draws -/

/-- What a draw touches depends on the coordinates, the address register and memory only. -/
theorem touched_congr {t : State} (hx : t.reg x = s.reg x) (hy : t.reg y = s.reg y) (hi : t.ireg = s.ireg)
    (hm : MemKept s t) (px py : Nat) : Touched t x y n px py ↔ Touched s x y n px py := by
  simp only [Touched, hx, hy, hi, hm _]

end

/-- A flag that is 1 or 0 as a condition holds or not says by its 1 that the condition holds. -/
theorem flag_eq_one_iff {b : Byte} {p : Prop} (h1 : p → b = 1#8) (h0 : ¬ p → b = 0#8) : b = 1#8 ↔ p :=
  ⟨fun h => by_contra fun hp => absurd (h.symm.trans (h0 hp)) (by decide), h1⟩

/-! ### The obligations -/

/-- Settles O27: the clear buffer has no lit pixel, and CLS writes the frame buffer alone. -/
theorem clearUnlightsEveryPixel : Obligations.ClearUnlightsEveryPixel :=
  fun s =>
    ⟨s.setFb FrameBuffer.clear, rfl, FrameBuffer.pixel_clear, fun r _ => s.setFb_reg _ r, rfl, rfl, ⟨rfl, rfl, rfl⟩,
      rfl, s.setFb_readByte _, ⟨rfl, rfl, rfl, rfl⟩, rfl⟩

/-- Settles O25: in range the draw writes the blitted frame buffer and VF alone, out of range it raises. -/
theorem drawTogglesAndReportsCollision : Obligations.DrawTogglesAndReportsCollision := by
  intro s x y n
  refine ⟨fun hin => ?_, fun hn hout => raisesIn_of_exec (exec_drw_outOfRange hn hout)⟩
  refine ⟨_, exec_drw_inRange hin, fun px py hx hy => State.drawn_pixel hx hy, fun hc => ?_, fun hc => ?_,
    regsKept_setReg (s.setFb _) _ (List.mem_singleton_self vf), rfl, rfl, ⟨rfl, rfl, rfl⟩, rfl,
    fun _ => rfl, ⟨rfl, rfl, rfl, rfl⟩, rfl⟩
  · rw [State.reg_setReg_same, State.drawn_erased_iff.mpr hc]
    rfl
  · rw [State.reg_setReg_same, Bool.eq_false_iff.mpr (mt State.drawn_erased_iff.mp hc)]
    rfl

/-- Settles O26: the first draw leaves the coordinates, the address register and memory, so that the second touches the
same pixels, each of them inverted by the first. -/
theorem drawTwiceRestoresScreen : Obligations.DrawTwiceRestoresScreen := by
  intro s x y n hx hy hin
  obtain ⟨t, ht, tpix, tvf1, tvf0, treg, -, ti, -, -, tmem, -⟩ := (drawTogglesAndReportsCollision s x y n).1 hin
  obtain ⟨u, hu, upix, uvf1, uvf0, -⟩ := (drawTogglesAndReportsCollision t x y n).1 (ti ▸ hin)
  have same := touched_congr (n := n) (treg x (by simpa using hx)) (treg y (by simpa using hy)) ti tmem
  refine ⟨t, u, ht, hu, FrameBuffer.ext_pixel fun px py hpx hpy => ?_, flag_eq_one_iff tvf1 tvf0,
    (flag_eq_one_iff uvf1 uvf0).trans ?_⟩
  · by_cases h : Touched s x y n px py
    · rw [(upix px py hpx hpy).1 ((same px py).mpr h), (tpix px py hpx hpy).1 h, Bool.not_not]
    · rw [(upix px py hpx hpy).2 (mt (same px py).mp h), (tpix px py hpx hpy).2 h]
  · refine exists₂_congr fun px py => (and_congr_left' (same px py)).trans (and_congr_right fun h => ?_)
    obtain ⟨hpx, hpy⟩ := h.bounds
    rw [(tpix px py hpx hpy).1 h, Bool.not_eq_true']

end Sys2Proof.Machine

/-! SUPPORT. When a key is held, and how a skip on the level of KEYS completes (spec/46_input.md R180 to R182). -/

namespace Sys2Proof.Machine

open Sys2Proof

theorem keyHeld_iff (keys : BitVec 16) (k : Byte) :
    keyHeld keys k = true ↔ k.toNat ≤ 15 ∧ keys.getLsbD k.toNat = true := by
  unfold keyHeld
  split <;> simp [*]

theorem not_keyHeld_iff (keys : BitVec 16) (k : Byte) :
    (!keyHeld keys k) = true ↔ ¬ (k.toNat ≤ 15 ∧ keys.getLsbD k.toNat = true) :=
  Bool.not_iff_not.trans (not_congr (keyHeld_iff keys k))

/-- A skip after a query of the environment changes `pc` and the environment alone; its condition may be given as a
proposition. -/
theorem completes_setEnv_skipIf {i : Instr} {s : State} {e : Env} {b : Bool} {c : Prop} [Decidable c]
    (hc : b = true ↔ c) (h : exec i s = .next ((s.setEnv e).skipIf b)) :
    ∃ t, exec i s = .next t ∧ t.pc = (if c then s.pc + 2#16 else s.pc) ∧
      RegsKept s t [] ∧ BlockKept s t ∧ t.env = e := by
  simp only [State.skipIf_eq, hc] at h
  exact ⟨_, h, rfl, fun _ _ => rfl, (restKept_setPc (s.setEnv e) _).1, rfl⟩

/-! ### The obligations -/

/-- Settles O15: each samples `KEYS` once and skips, SKP on the key being held at that level, SKNP on its negation. -/
theorem keySkips : Obligations.KeySkips := by
  intro s x
  constructor
  · exact completes_setEnv_skipIf (keyHeld_iff _ _) rfl
  · rw [← ite_not]
    exact completes_setEnv_skipIf (not_keyHeld_iff _ _) rfl

end Sys2Proof.Machine

/-! SUPPORT. What the timer and miscellaneous group leaves: the timer moves, the glyph address, the block stores and the
block load in range and out of it, and the wait for a key (spec/47_timer_misc.md R185 to R193). -/

namespace Sys2Proof.Machine

open Sys2Proof

/-! ### What a block store and a block load leave -/

/-- A byte inside a stored block reads as the block's byte at that offset (R54). -/
theorem State.readByte_writeFrom_add (s : State) (base : Nat) {bs : List Byte} {k : Nat} (h : k < bs.length) :
    (s.setMem (Memory.writeFrom s.mem base bs)).readByte (base + k) = bs.getD k 0#8 := by
  rw [State.setMem_readByte, Memory.read_writeFrom, if_pos (by omega), Nat.add_sub_cancel_left]

/-- A block store leaves everything but the block's own bytes. -/
theorem frame_writeFrom (s : State) (base : Nat) {bs : List Byte} {n : Nat} {t : State} (hn : bs.length = n)
    (ht : t = s.setMem (Memory.writeFrom s.mem base bs)) :
    MemKeptBut s t base n ∧ RegsKept s t [] ∧ t.pc = s.pc ∧ t.ireg = s.ireg ∧ TimersKept s t ∧
      t.stack = s.stack ∧ t.fb = s.fb ∧ ControlKept s t := by
  subst hn ht
  exact ⟨memKeptBut_writeFrom s base bs, fun _ _ => rfl, rfl, rfl, ⟨rfl, rfl, rfl⟩, rfl, rfl, ⟨rfl, rfl, rfl, rfl⟩, rfl⟩

theorem State.loadFrom_pc (s : State) (k : Nat) (bs : List Byte) : (s.loadFrom k bs).pc = s.pc := by
  rw [State.loadFrom_eq]

theorem restKept_loadFrom (s : State) (k : Nat) (bs : List Byte) : RestKept s (s.loadFrom k bs) := by
  rw [State.loadFrom_eq]
  exact ⟨⟨rfl, ⟨rfl, rfl, rfl⟩, rfl, rfl, fun _ => rfl, rfl, rfl, rfl, rfl⟩, rfl⟩

/-- After a load of X + 1 bytes of memory the registers up to X hold those bytes, the others what they held. -/
theorem State.reg_loadFrom_readFrom (s : State) (base : Nat) (x r : RegIdx) :
    (s.loadFrom 0 (Memory.readFrom s.mem base (x.toNat + 1))).reg r =
      if r.toNat ≤ x.toNat then s.readByte (base + r.toNat) else s.reg r := by
  have hx := x.isLt
  rw [State.loadFrom_reg _ _ _ (by rw [Memory.length_readFrom]; omega), Memory.length_readFrom]
  by_cases hr : r.toNat ≤ x.toNat
  · rw [if_pos (by omega), if_pos hr, Nat.sub_zero, List.getD_eq_getElem?_getD, Memory.getElem?_readFrom,
      if_pos (by omega)]
    rfl
  · rw [if_neg (by omega), if_neg hr]

/-! ### How the block instructions answer -/

section

variable {s : State} {x : RegIdx}

theorem exec_ldB_outOfRange (h : s.ireg.toNat + 2 > 0x0FFF) :
    exec (.ldB x) s = s.raiseIn .addressError (.ldB x) := by
  rw [exec, execLdB, s.writeBlock_none (by simp only [length_decimalDigits, Config.memSize]; omega)]

theorem exec_storeRegs_outOfRange (h : s.ireg.toNat + x.toNat > 0x0FFF) :
    exec (.storeRegs x) s = s.raiseIn .addressError (.storeRegs x) := by
  rw [exec, execStoreRegs, s.writeBlock_none (by simp only [State.length_regsUpTo, Config.memSize]; omega)]

/-- `FX65` with its block in range loads `V[0]` to `V[X]` from `I` up (R192). -/
theorem exec_loadRegs_inRange (h : s.ireg.toNat + x.toNat ≤ 0x0FFF) :
    exec (.loadRegs x) s = .next (s.loadFrom 0 (Memory.readFrom s.mem s.ireg.toNat (x.toNat + 1))) := by
  rw [exec, execLoadRegs, s.readBlock_some (.inr (by simp only [Config.memSize]; omega))]

theorem exec_loadRegs_outOfRange (h : s.ireg.toNat + x.toNat > 0x0FFF) :
    exec (.loadRegs x) s = s.raiseIn .addressError (.loadRegs x) := by
  rw [exec, execLoadRegs, s.readBlock_none (by simp only [Config.memSize]; omega)]

end

/-! ### The glyph address -/

/-- The low four bits of a byte are its remainder by 16, so the glyph address is five times that (R189, R41). -/
theorem glyphAddr_eq_ofNat (a : Byte) : glyphAddr a = BitVec.ofNat 16 (5 * (a.toNat % 16)) := by
  have hlow : (a &&& 0x0F#8).toNat = a.toNat % 16 := Nat.and_two_pow_sub_one_eq_mod a.toNat 4
  rw [glyphAddr, hlow, Config.glyphBytes]

/-! ### The obligations -/

/-- Settles O30: in range the block of the three digits is stored and nothing else, out of range the store answers none
and the instruction raises. -/
theorem decimalDigitsStored : Obligations.DecimalDigitsStored := by
  intro s x
  constructor
  · intro hin
    have digit (k : Nat) (hk : k < 3) :
        (s.setMem (Memory.writeFrom s.mem s.ireg.toNat (decimalDigits (s.reg x)))).readByte (s.ireg.toNat + k) =
          (decimalDigits (s.reg x)).getD k 0#8 :=
      s.readByte_writeFrom_add s.ireg.toNat hk
    exact ⟨_, exec_ldB_inRange hin, digit 0 (by decide), digit 1 (by decide), digit 2 (by decide),
      frame_writeFrom s _ (length_decimalDigits _) rfl⟩
  · intro hout
    exact raisesIn_of_exec (exec_ldB_outOfRange hout)

/-- Settles O31: in range the block of the registers is stored and nothing else, out of range the store answers none and
the instruction raises. -/
theorem registersStored : Obligations.RegistersStored := by
  intro s x
  constructor
  · intro hin
    refine ⟨_, exec_storeRegs_inRange hin, fun r hr => ?_, frame_writeFrom s _ (s.length_regsUpTo x) rfl⟩
    have hlen : r.toNat < (s.regsUpTo x).length := (s.length_regsUpTo x).symm ▸ Nat.lt_succ_of_le hr
    rw [s.readByte_writeFrom_add _ hlen, s.getD_regsUpTo x hr, BitVec.ofNat_toNat, BitVec.setWidth_eq]
  · intro hout
    exact raisesIn_of_exec (exec_storeRegs_outOfRange hout)

/-- Settles O32: in range the block read from memory goes to the registers up to X alone, out of range the read answers
none and the instruction raises. -/
theorem registersLoaded : Obligations.RegistersLoaded := by
  intro s x
  constructor
  · intro hin
    refine ⟨_, exec_loadRegs_inRange hin, fun r hr => ?_, fun r hr => ?_, s.loadFrom_pc _ _, restKept_loadFrom s _ _⟩
    · rw [State.reg_loadFrom_readFrom, if_pos hr]
    · rw [State.reg_loadFrom_readFrom, if_neg hr.not_ge]
  · intro hout
    exact raisesIn_of_exec (exec_loadRegs_outOfRange hout)

/-- Settles O28: FX07 is one register write, FX15 and FX18 each write one timer alone. -/
theorem timerMoves : Obligations.TimerMoves :=
  fun s x =>
    ⟨completesReg_of_exec rfl,
      ⟨s.setDT (s.reg x), rfl, rfl, rfl, rfl, fun r _ => s.setDT_reg _ r, rfl, rfl, rfl, rfl, s.setDT_readByte _,
        ⟨rfl, rfl, rfl, rfl⟩, rfl⟩,
      ⟨s.setST (s.reg x), rfl, rfl, rfl, rfl, fun r _ => s.setST_reg _ r, rfl, rfl, rfl, rfl, s.setST_readByte _,
        ⟨rfl, rfl, rfl, rfl⟩, rfl⟩⟩

/-- Settles O29: FX29 writes I alone, with the glyph address. -/
theorem glyphAddress : Obligations.GlyphAddress := by
  intro s x
  rw [← glyphAddr_eq_ofNat]
  exact completesI_of_exec rfl

/-- Settles O33: FX0A writes PAUSED and KWAIT alone; a key press with that wait pending is one register write, of the key
to x, and the end of the wait. -/
theorem keyWaitBeginsAndCompletes : Obligations.KeyWaitBeginsAndCompletes := by
  intro s x
  constructor
  · exact ⟨s.waitKey x, rfl, rfl, rfl, fun r _ => s.waitKey_reg x r, rfl, rfl, ⟨rfl, rfl, rfl⟩, rfl, rfl,
      s.waitKey_readByte x, rfl, rfl, rfl⟩
  · intro hh hx k
    rw [State.keyPress_waiting k hh hx, BitVec.ofNat_toNat]
    exact ⟨s.reg_setReg_same x _, regsKept_setReg s _ (List.mem_singleton_self x), rfl, rfl, rfl⟩

end Sys2Proof.Machine

/-! SUPPORT. Which inputs an instruction consumes, and that every instruction and every step of the engine answers a
next state, the same one whatever events are to come (spec/50_engine_and_interfaces.md R200 to R219;
spec/60_exceptions.md R239). -/

namespace Sys2Proof.Machine

open Sys2Proof

/-! ### The inputs of the environment (R215, R219) -/

section

variable {i : Instr} {s t : State}

theorem Effect.schedule_eq (h : Effect i s t) : t.env.schedule = s.env.schedule := by
  cases h with
  | randomByte => exact s.env.nextRnd_frame.1
  | keySkip => exact s.env.nextKeys_frame.1
  | _ => rfl

theorem Effect.rnd_kept (h : Effect i s t) (hi : ∀ x nn, i ≠ .rnd x nn) :
    t.env.rndFeed = s.env.rndFeed ∧ t.env.rndDrawn = s.env.rndDrawn := by
  cases h with
  | randomByte _ x nn => exact absurd rfl (hi x nn)
  | keySkip => exact s.env.nextKeys_frame.2
  | _ => exact ⟨rfl, rfl⟩

theorem Effect.keys_kept (h : Effect i s t) (hskp : ∀ x, i ≠ .skp x) (hsknp : ∀ x, i ≠ .sknp x) :
    t.env.keysFeed = s.env.keysFeed ∧ t.env.keysDrawn = s.env.keysDrawn := by
  cases h with
  | randomByte => exact s.env.nextRnd_frame.2
  | keySkip _ _ hi => exact hi.elim (fun ⟨x, hx⟩ => absurd hx (hskp x)) (fun ⟨x, hx⟩ => absurd hx (hsknp x))
  | _ => exact ⟨rfl, rfl⟩

end

/-- Settles O58: of the effects of an instruction only `randomByte` and `keySkip` write the environment, each its own
input. -/
theorem inputsAreConsumedOnlyByTheirReaders : Obligations.InputsAreConsumedOnlyByTheirReaders := by
  intro i s t h
  have he := exec_effect i s t h
  exact ⟨he.schedule_eq, he.rnd_kept, he.keys_kept⟩

/-! ### A state with other events to come -/

/-- The state with `l` as the events to come, everything else as before. -/
def State.withSchedule (s : State) (l : List Event) : State :=
  s.setEnv { s.env with schedule := l }

theorem State.withSchedule_self {s : State} {l : List Event} (h : s.env.schedule = l) : s.withSchedule l = s := by
  subst h
  rfl

theorem Env.nextRnd_withSchedule (e : Env) (l : List Event) :
    { e with schedule := l }.nextRnd = (e.nextRnd.1, { e.nextRnd.2 with schedule := l }) := by
  cases hf : e.rndFeed with
  | nil => simp [Env.nextRnd, hf]
  | cons b bs => simp [Env.nextRnd, hf]

theorem Env.nextKeys_withSchedule (e : Env) (l : List Event) :
    { e with schedule := l }.nextKeys = (e.nextKeys.1, { e.nextKeys.2 with schedule := l }) := by
  cases hf : e.keysFeed with
  | nil => simp [Env.nextKeys, hf]
  | cons k ks => simp [Env.nextKeys, hf]

theorem State.drawRnd_withSchedule (s : State) (l : List Event) :
    (s.withSchedule l).drawRnd = (s.drawRnd.1, s.drawRnd.2.withSchedule l) := by
  have h : (s.withSchedule l).env.nextRnd = _ := s.env.nextRnd_withSchedule l
  rw [State.drawRnd, h]
  rfl

theorem State.sampleKeys_withSchedule (s : State) (l : List Event) :
    (s.withSchedule l).sampleKeys = (s.sampleKeys.1, s.sampleKeys.2.withSchedule l) := by
  have h : (s.withSchedule l).env.nextKeys = _ := s.env.nextKeys_withSchedule l
  rw [State.sampleKeys, h]
  rfl

theorem State.loadFrom_withSchedule (s : State) (l : List Event) (k : Nat) (bs : List Byte) :
    (s.withSchedule l).loadFrom k bs = (s.loadFrom k bs).withSchedule l := by
  induction bs generalizing s k with
  | nil => rfl
  | cons b bs ih => exact ih (s.setReg (BitVec.ofNat 4 k) b) (k + 1)

/-- The transition answers a next state from `s`, and the events to come play no part in it: with others the answer is
the same state but for them. -/
def AnswersNext (f : State → Host.Outcome State Fault Refusal) (s : State) : Prop :=
  ∃ t, f s = .next t ∧ ∀ l, f (s.withSchedule l) = .next (t.withSchedule l)

/-- By cases on the instruction: the six that can raise answer in both of their cases, and only the three that read an
input look at the environment. -/
theorem exec_answersNext (i : Instr) (s : State) : AnswersNext (exec i) s := by
  cases i
  case call nnn =>
    by_cases h : s.stack.length < Config.stackDepth
    · exact ⟨_, exec_call_of_lt nnn h, fun l => exec_call_of_lt (s := s.withSchedule l) nnn h⟩
    · exact ⟨_, exec_call_of_not_lt nnn h, fun l => exec_call_of_not_lt (s := s.withSchedule l) nnn h⟩
  case ret =>
    rcases List.eq_nil_or_concat s.stack with h | ⟨l, a, h⟩
    · exact ⟨_, exec_ret_of_nil h, fun l => exec_ret_of_nil (s := s.withSchedule l) h⟩
    · rw [List.concat_eq_append] at h
      exact ⟨_, exec_ret_of_concat h, fun l => exec_ret_of_concat (s := s.withSchedule l) h⟩
  case drw x y n =>
    by_cases h : n = 0#4 ∨ s.ireg.toNat + n.toNat ≤ 0x1000
    · exact ⟨_, exec_drw_inRange h, fun l => exec_drw_inRange (s := s.withSchedule l) h⟩
    · have hn : 1 ≤ n.toNat := Nat.pos_of_ne_zero fun e => h (.inl (BitVec.eq_of_toNat_eq e))
      have hout : s.ireg.toNat + n.toNat - 1 > 0x0FFF := by omega
      exact ⟨_, exec_drw_outOfRange hn hout, fun l => exec_drw_outOfRange (s := s.withSchedule l) hn hout⟩
  case ldB x =>
    rcases Nat.lt_or_ge 0x0FFF (s.ireg.toNat + 2) with h | h
    · exact ⟨_, exec_ldB_outOfRange h, fun l => exec_ldB_outOfRange (s := s.withSchedule l) h⟩
    · exact ⟨_, exec_ldB_inRange h, fun l => exec_ldB_inRange (s := s.withSchedule l) h⟩
  case storeRegs x =>
    rcases Nat.lt_or_ge 0x0FFF (s.ireg.toNat + x.toNat) with h | h
    · exact ⟨_, exec_storeRegs_outOfRange h, fun l => exec_storeRegs_outOfRange (s := s.withSchedule l) h⟩
    · exact ⟨_, exec_storeRegs_inRange h, fun l => exec_storeRegs_inRange (s := s.withSchedule l) h⟩
  case loadRegs x =>
    rcases Nat.lt_or_ge 0x0FFF (s.ireg.toNat + x.toNat) with h | h
    · exact ⟨_, exec_loadRegs_outOfRange h, fun l => exec_loadRegs_outOfRange (s := s.withSchedule l) h⟩
    · refine ⟨_, exec_loadRegs_inRange h, fun l => ?_⟩
      rw [exec_loadRegs_inRange (s := s.withSchedule l) h, State.loadFrom_withSchedule]
      rfl
  case rnd x nn =>
    refine ⟨_, rfl, fun l => ?_⟩
    simp only [exec, execRnd, State.drawRnd_withSchedule]
    rfl
  case skp | sknp =>
    refine ⟨_, rfl, fun l => ?_⟩
    simp only [exec, execSkp, execSknp, State.sampleKeys_withSchedule]
    rfl
  all_goals exact ⟨_, rfl, fun _ => rfl⟩

/-- Settles O39: whatever the events to come, the answer of `exec` is a next state. -/
theorem everyInstructionAnswersNext : Obligations.EveryInstructionAnswersNext :=
  fun i s => (exec_answersNext i s).imp fun _ h => h.1

/-! ### The step of the engine -/

theorem executeWord_answersNext (w : Word) (s : State) : AnswersNext (executeWord w) s := by
  cases h : decodeWord w with
  | ok i => simpa only [AnswersNext, executeWord_ok h] using exec_answersNext i s
  | error e => exact ⟨_, executeWord_error h s, fun l => executeWord_error h (s.withSchedule l)⟩

theorem engineStep_answersNext (s : State) : AnswersNext engineStep s := by
  cases hh : s.halted with
  | true => exact ⟨s, engineStep_halted hh, fun l => engineStep_halted (s := s.withSchedule l) hh⟩
  | false =>
    cases hp : s.paused with
    | true => exact ⟨s, engineStep_paused hp, fun l => engineStep_paused (s := s.withSchedule l) hp⟩
    | false =>
      cases hw : s.fetchWord with
      | none =>
        exact ⟨_, engineStep_fetchError hh hp hw, fun l => engineStep_fetchError (s := s.withSchedule l) hh hp hw⟩
      | some w =>
        obtain ⟨t, ht, htl⟩ := executeWord_answersNext w (s.setPc (s.pc + 2#16))
        exact ⟨t, (engineStep_fetch hh hp hw).trans ht,
          fun l => (engineStep_fetch (s := s.withSchedule l) hh hp hw).trans (htl l)⟩

theorem engineStep_withSchedule {s t : State} (h : engineStep s = .next t) (l : List Event) :
    engineStep (s.withSchedule l) = .next (t.withSchedule l) := by
  obtain ⟨u, hu, hul⟩ := engineStep_answersNext s
  obtain rfl : t = u := Host.Outcome.next.inj (h.symm.trans hu)
  exact hul l

/-- With the very events that are to come the answer is the same, so a step leaves them. -/
theorem engineStep_schedule {s t : State} (h : engineStep s = .next t) : t.env.schedule = s.env.schedule := by
  have hsame : engineStep s = .next (t.withSchedule s.env.schedule) := engineStep_withSchedule h s.env.schedule
  exact congrArg (·.env.schedule) (Host.Outcome.next.inj (h.symm.trans hsame))

/-- Settles O40: the fetch is in range and its word decodes. -/
theorem stepRunsTheDecodedInstruction : Obligations.StepRunsTheDecodedInstruction :=
  fun _ _ => step_of_decodeWord

/-- Settles O43: the step of the engine answers a halted and a paused state themselves. -/
theorem suspendedStepChangesNothing : Obligations.SuspendedStepChangesNothing := by
  intro s hs hsusp
  rw [step_engine hs]
  rcases hsusp with hh | hp
  · exact engineStep_halted hh
  · exact engineStep_paused hp

end Sys2Proof.Machine

/-! SUPPORT. The fatal errors: which instructions raise them, and that they are precise (spec/60_exceptions.md R231,
R232, R236, R237). -/

namespace Sys2Proof.Machine

open Sys2Proof

/-- An instruction halts a running machine only by a fatal error that it can raise. -/
theorem Effect.raised_of_halted {i : Instr} {s t : State} (h : Effect i s t) (hs : s.halted = false)
    (ht : t.halted = true) : ∃ c, CanRaise i c ∧ t = s.raise c (encode i) s.fetchAddr := by
  cases h with
  | raised _ hc => exact ⟨_, hc, rfl⟩
  | _ => exact absurd (hs.symm.trans ht) Bool.false_ne_true

/-- Settles O38, by cases on the errors that an instruction can raise. -/
theorem instructionsThatRaise : Obligations.InstructionsThatRaise := by
  intro i s t hs h ht
  obtain ⟨c, hc, rfl⟩ := (exec_effect i s t h).raised_of_halted hs ht
  cases hc with
  | call nnn => exact .inl ⟨⟨nnn, rfl⟩, rfl⟩
  | ret => exact .inr (.inl ⟨rfl, rfl⟩)
  | drw x y n => exact .inr (.inr ⟨.inl ⟨x, y, n, rfl⟩, rfl⟩)
  | ldB x => exact .inr (.inr ⟨.inr (.inl ⟨x, rfl⟩), rfl⟩)
  | storeRegs x => exact .inr (.inr ⟨.inr (.inr (.inl ⟨x, rfl⟩)), rfl⟩)
  | loadRegs x => exact .inr (.inr ⟨.inr (.inr (.inr ⟨x, rfl⟩)), rfl⟩)

/-- Once `pc` is advanced past an instruction, its fetch address is the `pc` of before (R201). -/
theorem State.fetchAddr_setPc_add_two (s : State) : (s.setPc (s.pc + 2#16)).fetchAddr = s.pc :=
  BitVec.add_sub_cancel s.pc 2#16

/-- A fetched word that halts a running machine does so by a fatal error with that word: its own instruction's, or
`DecodeError`. -/
theorem executeWord_raised_of_halted {w : Word} {s t : State} (h : executeWord w s = .next t) (hs : s.halted = false)
    (ht : t.halted = true) : ∃ c, t = s.raise c w s.fetchAddr := by
  cases hd : decodeWord w with
  | ok i =>
    rw [executeWord_ok hd] at h
    obtain ⟨c, -, htc⟩ := (exec_effect i s t h).raised_of_halted hs ht
    exact ⟨c, encodeOfDecode w i hd ▸ htc⟩
  | error e =>
    rw [executeWord_error hd] at h
    exact ⟨.decodeError, (Host.Outcome.next.inj h).symm⟩

/-- A fatal error of an executed word leaves everything of the state before the fetch but `pc`, HALTED and ERR, and its
record holds the fetch address (R236, R237). -/
theorem State.raise_advanced_raised (s : State) (c : ErrorCause) (w : Word) :
    Raised s ((s.setPc (s.pc + 2#16)).raise c w s.pc) ⟨c.code, w, s.pc⟩ :=
  (s.setPc (s.pc + 2#16)).raise_raised c w s.pc

/-- Settles O44: a running machine is halted by the failed fetch, with `pc` kept, or by the fetched word, with `pc`
advanced. -/
theorem errorsArePrecise : Obligations.ErrorsArePrecise := by
  intro s t hs hh h ht
  rw [step_engine hs] at h
  have hp : s.paused = false := Bool.eq_false_iff.mpr fun hp => by
    rw [engineStep_paused hp] at h
    cases h
    simp [hh] at ht
  cases hw : s.fetchWord with
  | none =>
    rw [engineStep_fetchError hh hp hw] at h
    cases h
    exact ⟨s.raise_raised .addressError _ s.pc, rfl, ErrorCause.code_ne_zero .addressError, .inl ⟨rfl, rfl, rfl, rfl⟩⟩
  | some w =>
    rw [engineStep_fetch hh hp hw] at h
    obtain ⟨c, rfl⟩ := executeWord_raised_of_halted h hh ht
    rw [State.fetchAddr_setPc_add_two]
    exact ⟨s.raise_advanced_raised c w, rfl, c.code_ne_zero, .inr ⟨rfl, rfl⟩⟩

theorem decodeWord_of_not_legalWord {w : Word} (h : legalWord w = false) : ∃ e, decodeWord w = .error e := by
  cases hd : decodeWord w with
  | ok i => simp [(dispatchAgreesWithOpcodeMap w).mp ⟨i, hd⟩] at h
  | error e => exact ⟨e, rfl⟩

/-- Settles O41: the decoder rejects a word that no row selects, and the step raises `DecodeError` with it. -/
theorem illegalWordHaltsPrecisely : Obligations.IllegalWordHaltsPrecisely := by
  rintro s w hs hh hp hpc rfl hw
  obtain ⟨e, he⟩ := decodeWord_of_not_legalWord hw
  refine ⟨_, ?_, s.raise_advanced_raised .decodeError _, rfl⟩
  rw [step_engine hs, engineStep_fetch hh hp (s.fetchWord_some hpc), executeWord_error he,
    State.fetchAddr_setPc_add_two]

end Sys2Proof.Machine

/-! SUPPORT. What the events leave: the tick, the key press, the reset and the boot (spec/50_engine_and_interfaces.md
R211, R216, R218; spec/70_reset_and_hazards.md R260, R262), and when the machine answers no next state (R216). -/

namespace Sys2Proof.Machine

open Sys2Proof

/-- Settles O47: the running tick writes the timers and TONE alone. -/
theorem tickCountsDownAndReportsTone : Obligations.TickCountsDownAndReportsTone := by
  intro s
  refine ⟨State.tick_halted, fun hh => ?_⟩
  rw [State.tick_running hh]
  exact ⟨toNat_countDown s.dt, toNat_countDown s.st, decide_eq_true_iff, fun _ _ => rfl, rfl, rfl, rfl, rfl,
    fun _ => rfl, ⟨rfl, rfl, rfl, rfl⟩, rfl⟩

/-- Settles O48: a served key press is one register write, of the key to x, and the end of the wait. -/
theorem keyPressServesAPendingWait : Obligations.KeyPressServesAPendingWait := by
  intro s k
  refine ⟨fun hh => State.keyPress_idle k (.inl hh), fun hx => State.keyPress_idle k (.inr hx), fun x hh hx => ?_⟩
  rw [State.keyPress_waiting k hh hx, BitVec.ofNat_toNat]
  exact ⟨s.reg_setReg_same x _, rfl, rfl, regsKept_setReg s _ (List.mem_singleton_self x), rfl, rfl, ⟨rfl, rfl, rfl⟩,
    rfl, rfl, fun _ => rfl, rfl, rfl⟩

/-! ### Reset -/

theorem State.onReset_reg (s : State) (r : RegIdx) : s.onReset.reg r = 0#8 :=
  Vector.getElem_replicate r.isLt

/-- After reset a cell holds its font byte, or, where the font gives none, its launch byte (R41, R42). -/
theorem State.onReset_readByte (s : State) (a : Nat) :
    s.onReset.readByte a = (fontRom[a]?).getD (Config.memInit a) := rfl

theorem length_fontRom : fontRom.length = 0x50 := rfl

/-- Settles O50: the fields are those of the fixed reset state, and the font covers the cells below 0x50. -/
theorem resetValues : Obligations.ResetValues := by
  intro s
  refine ⟨s.onReset_reg, rfl, rfl, rfl, rfl, rfl, rfl, rfl, rfl, rfl, rfl, FrameBuffer.pixel_clear, fun a ha => ?_,
    fun a ha => ?_⟩
  · rw [State.onReset_readByte, List.getElem?_eq_getElem (length_fontRom ▸ ha), Option.getD_some]
  · rw [State.onReset_readByte, List.getElem?_eq_none (length_fontRom ▸ ha), Option.getD_none]

/-! ### Boot -/

theorem State.boot_fits (s : State) {image : List Byte} (h : image.length ≤ 3584) :
    s.boot image = .next (s.onReset.setMem (Memory.writeFrom s.onReset.mem 0x200 image)) :=
  if_pos h

theorem State.boot_oversized (s : State) {image : List Byte} (h : 3584 < image.length) :
    s.boot image = .refused .oversizedImage :=
  if_neg (Nat.not_le.mpr h)

/-- Settles O51: an image that fits is one block store on the reset state. -/
theorem bootLoadsTheImage : Obligations.BootLoadsTheImage := by
  intro s image
  refine ⟨fun hfit => ⟨_, s.boot_fits hfit, fun k hk => ?_, frame_writeFrom s.onReset 0x200 rfl rfl⟩, s.boot_oversized⟩
  rw [s.onReset.readByte_writeFrom_add 0x200 hk, List.getD_eq_getElem _ _ hk, List.getElem?_eq_getElem hk]

/-- Settles O56, by cases on the scheduled event: only the boot can be refused. -/
theorem onlyAnOversizedImageStops : Obligations.OnlyAnOversizedImageStops := by
  intro s
  cases hs : s.env.schedule with
  | nil =>
    obtain ⟨t, ht, -⟩ := engineStep_answersNext s
    exact .inl ⟨t, (step_engine hs).trans ht⟩
  | cons e es =>
    rw [step_event hs]
    cases e with
    | step =>
      obtain ⟨t, ht, -⟩ := engineStep_answersNext (s.withSchedule es)
      exact .inl ⟨t, ht⟩
    | tick | keyPress | reset => exact .inl ⟨_, rfl⟩
    | boot image =>
      rcases Nat.lt_or_ge 3584 image.length with hbig | hfit
      · exact .inr ⟨State.boot_oversized _ hbig, image, es, rfl, hbig⟩
      · exact .inl ⟨_, State.boot_fits _ hfit⟩

end Sys2Proof.Machine

/-! SUPPORT. The cycle batch by its steps, and its events taken one by one (spec/50_engine_and_interfaces.md R210,
R222). -/

namespace Sys2Proof.Machine

open Sys2Proof

/-! ### The batch by its steps -/

theorem runSteps_halted (n : Nat) {s : State} (h : s.halted = true) : runSteps n s = .next s := by
  cases n with
  | zero => rfl
  | succ n => simp [runSteps, engineStep_halted h, h]

/-- The first step, then the rest of the batch: after a fatal error the rest changes nothing. -/
theorem runSteps_succ (n : Nat) {s t : State} (h : engineStep s = .next t) : runSteps (n + 1) s = runSteps n t := by
  rw [runSteps, h]
  cases ht : t.halted with
  | true => simp [ht, runSteps_halted n ht]
  | false => simp [ht]

theorem runCycles_halted (n : Nat) {s : State} (h : s.halted = true) :
    runCycles n s = .next ⟨s, false, some s.err⟩ := by
  simp [runCycles, runSteps_halted n h, h]

theorem runCycles_zero {s : State} (h : s.halted = false) : runCycles 0 s = .next ⟨s.tick, true, none⟩ := by
  simp [runCycles, runSteps, h]

theorem runCycles_succ (n : Nat) {s t : State} (h : engineStep s = .next t) : runCycles (n + 1) s = runCycles n t := by
  rw [runCycles, runCycles, runSteps_succ n h]

/-- Settles O52: a batch is its first step and the rest of it, and a rest that begins halted answers the error. -/
theorem cycleBatch : Obligations.CycleBatch := by
  intro n s
  refine ⟨runCycles_halted n, runCycles_zero, fun _ => ?_⟩
  obtain ⟨t, ht, -⟩ := engineStep_answersNext s
  exact ⟨t, ht, fun hh => (runCycles_succ n ht).trans (runCycles_halted n hh), fun _ => runCycles_succ n ht⟩

/-! ### The batch as events -/

/-- A batch of no steps leaves the state of its tick, halted or not. -/
theorem runCycles_zero_state (s : State) : ∃ r, runCycles 0 s = .next r ∧ r.state = s.tick := by
  cases hh : s.halted with
  | true => exact ⟨_, runCycles_halted 0 hh, (State.tick_halted hh).symm⟩
  | false => exact ⟨_, runCycles_zero hh, rfl⟩

theorem run_succ_of_step (n : Nat) {s t : State} (h : step s = .next t) :
    Host.Core.run Sys2Proof.core (n + 1) s = Host.Core.run Sys2Proof.core n t := by
  have hcore : Sys2Proof.core.step s = .next t := h
  simp only [Host.Core.run, hcore]

/-- Settles O53, by induction on the number of steps: the scheduled step is the batch's first one with the events of the
smaller batch still to come. -/
theorem batchIsItsEvents : Obligations.BatchIsItsEvents := by
  intro n
  induction n with
  | zero =>
    intro s hs
    obtain ⟨r, hr, hstate⟩ := runCycles_zero_state (s.withSchedule [])
    exact ⟨r, hr, (run_succ_of_step 0 (step_event hs)).trans (congrArg Host.Outcome.next hstate.symm)⟩
  | succ n ih =>
    intro s hs
    obtain ⟨t, ht, htl⟩ := engineStep_answersNext (s.withSchedule [])
    have hstep : step s = .next (t.withSchedule (batchEvents n)) := (step_event hs).trans (htl _)
    obtain ⟨r, hr, hrun⟩ := ih (t.withSchedule (batchEvents n)) rfl
    have hrest : runCycles n t = .next r := by
      rw [← State.withSchedule_self (engineStep_schedule ht)]
      exact hr
    exact ⟨r, (runCycles_succ n ht).trans hrest, (run_succ_of_step (n + 1) hstep).trans hrun⟩

end Sys2Proof.Machine
